-- ==== Sys2Proof/Word.lean ====
section
/-! DEFINITION. The word types of the WUT-4 (spec/00_scope.md R4, R5): 16-bit words, 8-bit bytes, 24-bit physical
addresses, and the three-bit register field as a number below 8. -/

namespace Sys2Proof

/-- A register, a virtual address or an instruction word: 16 bits (R4, R5). `+` and `-` wrap modulo 2^16 (R5). -/
abbrev Word := BitVec 16

/-- A byte of memory: 8 bits (R60). -/
abbrev Byte := BitVec 8

/-- A physical byte address: 24 bits, 16 MiB (R60 (c)). -/
abbrev PhysAddr := BitVec 24

/-- A register field of an instruction: one of the eight numbers 0..7 (R13, R101). What number 0 means is said by the
instruction that names it (R13, R14). -/
abbrev Reg := Fin 8

end Sys2Proof
end

