-- ==== Sys2Proof/Syntax.lean ====
section
/-! DEFINITION. The instructions: one constructor for each of the 45 rows of spec/opcode_table.json (R105), BRx once per
condition. Fields are named and sized as in R102; immediates stay the bits of their field, and the rule of each
instruction says how they are extended (R103). -/

namespace Sys2Proof

/-- The WUT-4's instructions. -/
inductive Instr where
  /-- The word 0x0000 (R230). -/
  | illegal0
  /-- Loads and stores (R130..R133). -/
  | ldw (rA rB : Reg) (imm7 : BitVec 7)
  | ldb (rA rB : Reg) (imm7 : BitVec 7)
  | stw (rA rB : Reg) (imm7 : BitVec 7)
  | stb (rA rB : Reg) (imm7 : BitVec 7)
  /-- Immediate arithmetic (R140, R141). -/
  | adi (rA rB : Reg) (imm7 : BitVec 7)
  | lui (rA : Reg) (imm10 : BitVec 10)
  /-- BRx with condition selector 0..7 (R150). -/
  | brAlways (imm10 : BitVec 10)
  | brLink (imm10 : BitVec 10)
  | brEq (imm10 : BitVec 10)
  | brNe (imm10 : BitVec 10)
  | brUge (imm10 : BitVec 10)
  | brUlt (imm10 : BitVec 10)
  | brSge (imm10 : BitVec 10)
  | brSlt (imm10 : BitVec 10)
  /-- R151. -/
  | jal (rA rB : Reg) (imm6 : BitVec 6)
  /-- XOPs (R160..R166). -/
  | sbb (rA rB rC : Reg)
  | adc (rA rB rC : Reg)
  | sub (rA rB rC : Reg)
  | add (rA rB rC : Reg)
  | xor (rA rB rC : Reg)
  | or (rA rB rC : Reg)
  | and (rA rB rC : Reg)
  /-- YOPs (R180..R186). SYS carries its rB field, which must be 0 for a system call, and n in rA's place. -/
  | lsp (rA rB : Reg)
  | lsi (rA rB : Reg)
  | ssp (rA rB : Reg)
  | ssi (rA rB : Reg)
  | lcw (rA rB : Reg)
  | sys (n rB : Reg)
  | y06 (rA rB : Reg)
  /-- ZOPs (R200..R206). -/
  | not (rA : Reg)
  | neg (rA : Reg)
  | zxt (rA : Reg)
  | sxt (rA : Reg)
  | sra (rA : Reg)
  | srl (rA : Reg)
  | dub (rA : Reg)
  /-- VOPs (R220..R229). -/
  | ccf
  | scf
  | di
  | ei
  | hlt
  | brk
  | rti
  | die
  deriving DecidableEq, Repr, Inhabited

end Sys2Proof
end

