-- ==== Sys2Proof/WellFormed.lean ====
section
/-! DEFINITION. Which instructions have a word of their own. The types of the fields already keep every field in its
range (R102); what is left is the one word that is taken out of LDW (R105, R251). -/

namespace Sys2Proof

/-- `LDW r0, r0+0` would be the word 0x0000, which the assembler refuses (R251) and the decoder reads as the illegal
word (R104). Every other instruction is well formed. -/
def Instr.wf : Instr → Bool
  | .ldw rA rB imm7 => !(decide (rA = 0) && decide (rB = 0) && decide (imm7 = 0))
  | _ => true

end Sys2Proof
end

