-- ==== Sys2Proof/Decode.lean ====
section
/-! DEFINITION. The decoder, written from the decision tree of R104 over the fields of R102, and the encoder, written
from the format tables R101 and the match column of R105. Every instruction is one 16-bit word (R100), stored little
endian (R63, D39), and every word has exactly one decoding (R104). -/

namespace Sys2Proof

/-- The bit field `w[lo + len - 1 : lo]` (R5). -/
def bitField (w : Word) (lo len : Nat) : BitVec len := w.extractLsb' lo len

/-- The three-bit register field whose lowest bit is `lo` (R102). -/
def regField (w : Word) (lo : Nat) : Reg := ⟨(bitField w lo 3).toNat, (bitField w lo 3).isLt⟩

/-- rA = w[2:0] (R102). -/
def fieldA (w : Word) : Reg := regField w 0

/-- rB = w[5:3] (R102). -/
def fieldB (w : Word) : Reg := regField w 3

/-- rC = w[8:6] (R102). -/
def fieldC (w : Word) : Reg := regField w 6

/-- imm7 = w[12:6] of format M (R102). -/
def fieldImm7 (w : Word) : BitVec 7 := bitField w 6 7

/-- imm10 = w[12:3] of formats U and B (R102). -/
def fieldImm10 (w : Word) : BitVec 10 := bitField w 3 10

/-- imm6 = w[11:6] of format J (R102). -/
def fieldImm6 (w : Word) : BitVec 6 := bitField w 6 6

/-- The VOPs: w[15:3] all ones, numbered by w[2:0] (R104). -/
def decodeVop (w : Word) : Instr :=
  match (bitField w 0 3).toNat with
  | 0 => .ccf
  | 1 => .scf
  | 2 => .di
  | 3 => .ei
  | 4 => .hlt
  | 5 => .brk
  | 6 => .rti
  | _ => .die

/-- The ZOPs: w[15:6] all ones, numbered by w[5:3] (R104); number 7 is the VOPs. -/
def decodeZop (w : Word) : Instr :=
  match (bitField w 3 3).toNat with
  | 0 => .not (fieldA w)
  | 1 => .neg (fieldA w)
  | 2 => .zxt (fieldA w)
  | 3 => .sxt (fieldA w)
  | 4 => .sra (fieldA w)
  | 5 => .srl (fieldA w)
  | 6 => .dub (fieldA w)
  | _ => decodeVop w

/-- The YOPs: w[15:9] all ones, numbered by w[8:6] (R104); number 7 is the ZOPs. -/
def decodeYop (w : Word) : Instr :=
  match (bitField w 6 3).toNat with
  | 0 => .lsp (fieldA w) (fieldB w)
  | 1 => .lsi (fieldA w) (fieldB w)
  | 2 => .ssp (fieldA w) (fieldB w)
  | 3 => .ssi (fieldA w) (fieldB w)
  | 4 => .lcw (fieldA w) (fieldB w)
  | 5 => .sys (fieldA w) (fieldB w)
  | 6 => .y06 (fieldA w) (fieldB w)
  | _ => decodeZop w

/-- The XOPs: w[15:12] all ones, numbered by w[11:9] (R104); number 7 is the YOPs. -/
def decodeXop (w : Word) : Instr :=
  match (bitField w 9 3).toNat with
  | 0 => .sbb (fieldA w) (fieldB w) (fieldC w)
  | 1 => .adc (fieldA w) (fieldB w) (fieldC w)
  | 2 => .sub (fieldA w) (fieldB w) (fieldC w)
  | 3 => .add (fieldA w) (fieldB w) (fieldC w)
  | 4 => .xor (fieldA w) (fieldB w) (fieldC w)
  | 5 => .or (fieldA w) (fieldB w) (fieldC w)
  | 6 => .and (fieldA w) (fieldB w) (fieldC w)
  | _ => decodeYop w

/-- BRx: the condition selector is w[2:0] (R150). -/
def decodeBranch (w : Word) : Instr :=
  match (bitField w 0 3).toNat with
  | 0 => .brAlways (fieldImm10 w)
  | 1 => .brLink (fieldImm10 w)
  | 2 => .brEq (fieldImm10 w)
  | 3 => .brNe (fieldImm10 w)
  | 4 => .brUge (fieldImm10 w)
  | 5 => .brUlt (fieldImm10 w)
  | 6 => .brSge (fieldImm10 w)
  | _ => .brSlt (fieldImm10 w)

/-- `Decode(w)` of R104: total on words. -/
def decodeWord (w : Word) : Instr :=
  if w = 0 then .illegal0
  else
    match (bitField w 13 3).toNat with
    | 0 => .ldw (fieldA w) (fieldB w) (fieldImm7 w)
    | 1 => .ldb (fieldA w) (fieldB w) (fieldImm7 w)
    | 2 => .stw (fieldA w) (fieldB w) (fieldImm7 w)
    | 3 => .stb (fieldA w) (fieldB w) (fieldImm7 w)
    | 4 => .adi (fieldA w) (fieldB w) (fieldImm7 w)
    | 5 => .lui (fieldA w) (fieldImm10 w)
    | 6 => decodeBranch w
    | _ =>
      match (bitField w 12 1).toNat with
      | 0 => .jal (fieldA w) (fieldB w) (fieldImm6 w)
      | _ => decodeXop w

/-- Why a list of bytes holds no instruction. -/
inductive DecodeError where
  /-- Fewer than the two bytes of an instruction word (R100). -/
  | truncated
  deriving DecidableEq, Repr

/-- A word from its two bytes, the one at the lower address first (R63). -/
def wordOfBytes (lo hi : Byte) : Word := hi ++ lo

/-- The decoder on bytes as memory holds them: the instruction and the bytes after it. -/
def decode : List Byte → Except DecodeError (Instr × List Byte)
  | lo :: hi :: rest => .ok (decodeWord (wordOfBytes lo hi), rest)
  | _ => .error .truncated

/-- The low `n` bytes of `w`, the least significant first. -/
def bytesOfNat : Nat → Nat → List Byte
  | 0, _ => []
  | n + 1, w => BitVec.ofNat 8 w :: bytesOfNat n (w / 256)

/-- The instruction the decoder reads from the bits `w` of a table row; an instruction has at least one word, and the
bits above `nbits` are 0. -/
def decodeTableWord (nbits w : Nat) : Option Instr :=
  match decode (bytesOfNat (max 2 (nbits / 8)) (w % 2 ^ nbits)) with
  | .ok (i, _) => some i
  | .error _ => none

/-- A register field as three bits. -/
def regBits (r : Reg) : BitVec 3 := BitVec.ofNat 3 r.val

/-- Format M (R102): opcode, imm7, rB, rA. -/
def formatM (op : BitVec 3) (imm7 : BitVec 7) (rB rA : Reg) : Word := op ++ imm7 ++ regBits rB ++ regBits rA

/-- Formats U and B (R102): opcode, imm10, and rA or the condition. -/
def formatU (op : BitVec 3) (imm10 : BitVec 10) (low : BitVec 3) : Word := op ++ imm10 ++ low

/-- Format J (R102): 1110, imm6, rB, rA. -/
def formatJ (imm6 : BitVec 6) (rB rA : Reg) : Word := 0xE#4 ++ imm6 ++ regBits rB ++ regBits rA

/-- Format X (R102): 1111, x, rC, rB, rA. -/
def formatX (x : BitVec 3) (rC rB rA : Reg) : Word := 0xF#4 ++ x ++ regBits rC ++ regBits rB ++ regBits rA

/-- Format Y (R102): seven ones, y, rB, rA. -/
def formatY (y : BitVec 3) (rB rA : Reg) : Word := 0x7F#7 ++ y ++ regBits rB ++ regBits rA

/-- Format Z (R102): ten ones, z, rA. -/
def formatZ (z : BitVec 3) (rA : Reg) : Word := 0x3FF#10 ++ z ++ regBits rA

/-- Format V (R102): thirteen ones, v. -/
def formatV (v : BitVec 3) : Word := 0x1FFF#13 ++ v

/-- The word of a well-formed instruction (R101, R105). -/
def encode : Instr → Word
  | .illegal0 => 0
  | .ldw rA rB imm7 => formatM 0 imm7 rB rA
  | .ldb rA rB imm7 => formatM 1 imm7 rB rA
  | .stw rA rB imm7 => formatM 2 imm7 rB rA
  | .stb rA rB imm7 => formatM 3 imm7 rB rA
  | .adi rA rB imm7 => formatM 4 imm7 rB rA
  | .lui rA imm10 => formatU 5 imm10 (regBits rA)
  | .brAlways imm10 => formatU 6 imm10 0
  | .brLink imm10 => formatU 6 imm10 1
  | .brEq imm10 => formatU 6 imm10 2
  | .brNe imm10 => formatU 6 imm10 3
  | .brUge imm10 => formatU 6 imm10 4
  | .brUlt imm10 => formatU 6 imm10 5
  | .brSge imm10 => formatU 6 imm10 6
  | .brSlt imm10 => formatU 6 imm10 7
  | .jal rA rB imm6 => formatJ imm6 rB rA
  | .sbb rA rB rC => formatX 0 rC rB rA
  | .adc rA rB rC => formatX 1 rC rB rA
  | .sub rA rB rC => formatX 2 rC rB rA
  | .add rA rB rC => formatX 3 rC rB rA
  | .xor rA rB rC => formatX 4 rC rB rA
  | .or rA rB rC => formatX 5 rC rB rA
  | .and rA rB rC => formatX 6 rC rB rA
  | .lsp rA rB => formatY 0 rB rA
  | .lsi rA rB => formatY 1 rB rA
  | .ssp rA rB => formatY 2 rB rA
  | .ssi rA rB => formatY 3 rB rA
  | .lcw rA rB => formatY 4 rB rA
  | .sys n rB => formatY 5 rB n
  | .y06 rA rB => formatY 6 rB rA
  | .not rA => formatZ 0 rA
  | .neg rA => formatZ 1 rA
  | .zxt rA => formatZ 2 rA
  | .sxt rA => formatZ 3 rA
  | .sra rA => formatZ 4 rA
  | .srl rA => formatZ 5 rA
  | .dub rA => formatZ 6 rA
  | .ccf => formatV 0
  | .scf => formatV 1
  | .di => formatV 2
  | .ei => formatV 3
  | .hlt => formatV 4
  | .brk => formatV 5
  | .rti => formatV 6
  | .die => formatV 7

/-- The mask and the match of the instruction's row in the opcode map R105. -/
def Instr.row : Instr → Word × Word
  | .illegal0 => (0xFFFF, 0x0000)
  | .ldw .. => (0xE000, 0x0000)
  | .ldb .. => (0xE000, 0x2000)
  | .stw .. => (0xE000, 0x4000)
  | .stb .. => (0xE000, 0x6000)
  | .adi .. => (0xE000, 0x8000)
  | .lui .. => (0xE000, 0xA000)
  | .brAlways .. => (0xE007, 0xC000)
  | .brLink .. => (0xE007, 0xC001)
  | .brEq .. => (0xE007, 0xC002)
  | .brNe .. => (0xE007, 0xC003)
  | .brUge .. => (0xE007, 0xC004)
  | .brUlt .. => (0xE007, 0xC005)
  | .brSge .. => (0xE007, 0xC006)
  | .brSlt .. => (0xE007, 0xC007)
  | .jal .. => (0xF000, 0xE000)
  | .sbb .. => (0xFE00, 0xF000)
  | .adc .. => (0xFE00, 0xF200)
  | .sub .. => (0xFE00, 0xF400)
  | .add .. => (0xFE00, 0xF600)
  | .xor .. => (0xFE00, 0xF800)
  | .or .. => (0xFE00, 0xFA00)
  | .and .. => (0xFE00, 0xFC00)
  | .lsp .. => (0xFFC0, 0xFE00)
  | .lsi .. => (0xFFC0, 0xFE40)
  | .ssp .. => (0xFFC0, 0xFE80)
  | .ssi .. => (0xFFC0, 0xFEC0)
  | .lcw .. => (0xFFC0, 0xFF00)
  | .sys .. => (0xFFC0, 0xFF40)
  | .y06 .. => (0xFFC0, 0xFF80)
  | .not .. => (0xFFF8, 0xFFC0)
  | .neg .. => (0xFFF8, 0xFFC8)
  | .zxt .. => (0xFFF8, 0xFFD0)
  | .sxt .. => (0xFFF8, 0xFFD8)
  | .sra .. => (0xFFF8, 0xFFE0)
  | .srl .. => (0xFFF8, 0xFFE8)
  | .dub .. => (0xFFF8, 0xFFF0)
  | .ccf => (0xFFFF, 0xFFF8)
  | .scf => (0xFFFF, 0xFFF9)
  | .di => (0xFFFF, 0xFFFA)
  | .ei => (0xFFFF, 0xFFFB)
  | .hlt => (0xFFFF, 0xFFFC)
  | .brk => (0xFFFF, 0xFFFD)
  | .rti => (0xFFFF, 0xFFFE)
  | .die => (0xFFFF, 0xFFFF)

end Sys2Proof
end

