-- ==== Sys2Proof/Machine/Bits.lean ====
section
/-! DEFINITION. Bit fields, extensions and byte order (spec/00_scope.md R5, spec/20_memory.md R63). -/

namespace Sys2Proof.Machine

/-- `sext_16` of a 7-bit immediate (R103 (a)). -/
def sext7 (imm : BitVec 7) : Word := imm.signExtend 16

/-- `sext_16` of a 10-bit immediate (R103 (c)). -/
def sext10 (imm : BitVec 10) : Word := imm.signExtend 16

/-- `sext_16` of a byte: bit 7 copied into bits 15:8 (R5). -/
def sext8 (b : Byte) : Word := b.signExtend 16

/-- `zext_16` of a byte. -/
def zext8 (b : Byte) : Word := b.setWidth 16

/-- Bits 7:0 of a word. -/
def lowByte (w : Word) : Byte := w.extractLsb' 0 8

/-- Bits 15:8 of a word. -/
def highByte (w : Word) : Byte := w.extractLsb' 8 8

/-- A word from its bytes: bits 7:0 from the byte at the lower address, bits 15:8 from the next (R63). -/
def joinBytes (lo hi : Byte) : Word := hi ++ lo

/-- Bits 15:12 of a virtual address: the MMU register that translates it (R70). -/
def pageOf (va : Word) : Fin 16 := ⟨(va.extractLsb' 12 4).toNat, (va.extractLsb' 12 4).isLt⟩

/-- Bits 11:0 of a virtual address: the offset in its page (R71). -/
def pageOffset (va : Word) : BitVec 12 := va.extractLsb' 0 12

/-- Whether a word access at this address is aligned: bit 0 is 0 (R65). -/
def isEven (addr : Word) : Bool := !addr.getLsbD 0

/-- The address with bit 0 cleared (D6, D7: `ignore_bit0`). -/
def clearBit0 (addr : Word) : Word := addr &&& 0xFFFE

end Sys2Proof.Machine
end

