-- ==== Sys2Proof/Machine/Regs.lean ====
section
/-! DEFINITION. The plain types the state and the configuration are built from: the modes (R10), the arithmetic flags
(R16), one context's registers (R11), the kinds of memory access (R71), the kinds of trap (R261) and the references a
memory-mapped device sees (R296). -/

namespace Sys2Proof.Machine

/-- The two modes (R10): the source's privileged or kernel mode, and user mode. -/
inductive Mode where
  | kernel
  | user
  deriving DecidableEq, Repr, Inhabited

/-- The four arithmetic flags of one context (R16): carry, zero, negative (the branch table's "s flag"), overflow. -/
structure Flags where
  c : Bool
  z : Bool
  n : Bool
  v : Bool
  deriving DecidableEq, Repr, Inhabited

/-- One context (R11, R36): general registers r1..r7 (register 0 holds nothing, R13), LINK (R14), the flags (R16),
sixteen code and sixteen data MMU registers (R36). -/
structure Bank where
  /-- r1..r7, at index 0..6. -/
  regs  : Vector Word 7
  link  : Word
  flags : Flags
  /-- Code MMU registers 0..15. -/
  cmmu  : Vector Word 16
  /-- Data MMU registers 0..15. -/
  dmmu  : Vector Word 16
  deriving DecidableEq, Repr, Inhabited

/-- The bank with every bit clear. -/
def Bank.blank : Bank :=
  { regs := Vector.replicate 7 0, link := 0, flags := ⟨false, false, false, false⟩,
    cmmu := Vector.replicate 16 0, dmmu := Vector.replicate 16 0 }

/-- The four kinds of access that are translated (R71): an instruction fetch, LCW's read of code space, a data read and
a data write. -/
inductive Access where
  | fetch
  | codeRead
  | dataRead
  | dataWrite
  deriving DecidableEq, Repr, Inhabited

/-- The event kinds of R261 that are entered through a vector, each with what its entry records: the virtual address
that goes to IDR (R28), and for ICR's open encoding the access that failed (R266). -/
inductive TrapKind where
  | illegalInstruction
  | pageFault (va : Word) (acc : Access)
  | sys (n : Fin 8)
  | trace
  | interrupt
  | misaligned (va : Word) (acc : Access)
  deriving DecidableEq, Repr, Inhabited

/-- The vectored rows of R261's table, without what an event carries: what ICR tells apart (R270, D19). That the n of
SYS n is not one of them is a DESIGN CHOICE, safe: R270's "injective in K" is read of the rows
(notes/assumptions/9.md). -/
inductive EventKind where
  | illegalInstruction
  | pageFault
  | sys
  | trace
  | interrupt
  | misaligned
  deriving DecidableEq, Repr, Inhabited

/-- The row of R261 that a trap belongs to. -/
def TrapKind.event : TrapKind → EventKind
  | .illegalInstruction => .illegalInstruction
  | .pageFault _ _ => .pageFault
  | .sys _ => .sys
  | .trace => .trace
  | .interrupt => .interrupt
  | .misaligned _ _ => .misaligned

/-- One reference to a memory-mapped device (R66, R80, R296): what it did, where, and the value read or written. An
aligned 16-bit access is one reference of a word. -/
inductive DeviceRef where
  | readByte (pa : PhysAddr) (b : Byte)
  | readWord (pa : PhysAddr) (v : Word)
  | writeByte (pa : PhysAddr) (b : Byte)
  | writeWord (pa : PhysAddr) (v : Word)
  deriving DecidableEq, Repr, Inhabited

end Sys2Proof.Machine
end

