-- ==== Sys2Proof/Config.lean ====
section
/-! DEFINITION. The implementation parameters of spec/00_scope.md R4 as one record of plain data, and the opaque
constants that stand for what the spec leaves open. A `Config` is held in State (no instruction changes it), so that a
statement about every state is a statement about every setting of the parameters. -/

namespace Sys2Proof

/-- DOUBLE_FAULT_ACTION (R4, R272): both are named by the source. -/
inductive DoubleFaultAction where
  | halt
  | reset
  deriving DecidableEq, Repr, Inhabited

/-- BR_OFFSET_UNIT (R4, R150): the BRx immediate counts instructions (2 bytes each) or bytes. -/
inductive BranchUnit where
  | instruction
  | byte
  deriving DecidableEq, Repr, Inhabited

/-- JAL_TARGET_MODE (R4, R151). -/
inductive JalTargetMode where
  | append
  | add
  deriving DecidableEq, Repr, Inhabited

/-- MISALIGNED_DATA (R4, R65, D6): the three behaviours the spec describes for a word access at an odd address. The
spec's fourth value, `refuse`, is the absence of a model, no behaviour of a machine (notes/assumptions/4.md). -/
inductive MisalignedData where
  | fault
  | ignoreBit0
  | split
  deriving DecidableEq, Repr, Inhabited

/-- MISALIGNED_PC (R4, R15, D7): the two behaviours the spec describes for a fetch at an odd pc. -/
inductive MisalignedPc where
  | fault
  | ignoreBit0
  deriving DecidableEq, Repr, Inhabited

/-- SPR_ADDR_HIGH (R4, R20, D13): the two behaviours the spec describes for a special-register address above 127 in
kernel mode. -/
inductive SprAddrHigh where
  | mask7
  | illegal
  deriving DecidableEq, Repr, Inhabited

/-- MMU_LAYOUT (R4, R70, D14): the page frame in bits 11:0 with RRPP in 15:12, or the frame in bits 15:4 with RRPP in
3:0. -/
inductive MmuLayout where
  | frameLow
  | frameHigh
  deriving DecidableEq, Repr, Inhabited

/-- MMU_PP_RESERVED (R4, R72, D15): for each kind of access, whether an access through an entry whose permission value
is binary 10 faults (true) or is made (false). spec/91_not_in_source.md N9: nothing may be assumed either way. -/
structure ReservedPermission where
  fetchFaults     : Bool
  codeReadFaults  : Bool
  dataReadFaults  : Bool
  dataWriteFaults : Bool
  deriving DecidableEq, Repr, Inhabited

/-- T_TRAP_TIMING (R4, R268, D23). -/
inductive TraceTiming where
  | after
  | before
  deriving DecidableEq, Repr, Inhabited

/-- HLT_WAKE (R4, R226, D26): nothing leaves the halted state, or an enabled interrupt does. -/
inductive HltWake where
  | never
  | interrupt
  deriving DecidableEq, Repr, Inhabited

/-- BRK_BEHAVIOUR (R4, R227, D27). -/
inductive BrkBehaviour where
  | hostServiceThenContinue
  | illegal
  | stop
  deriving DecidableEq, Repr, Inhabited

/-- VEC (R4, R273, D18): the vector of each kind that the source does not number. A field i stands for vector 1 + i, so
that every vector lies in 1..7; kinds may share one. -/
structure VectorTable where
  illegalInstruction : Fin 7
  pageFault          : Fin 7
  trace              : Fin 7
  interrupt          : Fin 7
  misaligned         : Fin 7
  deriving DecidableEq, Repr, Inhabited

/-- What stands at a range of physical addresses (PHYS_MAP; R77, D31). -/
inductive RegionKind where
  | ram
  | rom
  | device
  | unpopulated
  deriving DecidableEq, Repr, Inhabited

/-- One range of the physical map: the addresses base .. base + size - 1. -/
structure Region where
  base : Nat
  size : Nat
  kind : RegionKind
  deriving DecidableEq, Repr, Inhabited

/-- ISR_ENC and ISR_DEC (R4, R29, D19): what an entry writes to ISR for each previous mode, and which bits of ISR an RTI
looks at: those under `mask`, compared with what `user` has there. That a decoding looks at bits and at nothing else is
a DESIGN CHOICE (notes/assumptions/8.md). -/
structure IsrLayout where
  user   : Word
  kernel : Word
  mask   : Word
  deriving DecidableEq, Repr, Inhabited

/-- The default (D19): bit 0 is 1 for user, the other bits are written 0 and not read. -/
def IsrLayout.bit0 : IsrLayout := { user := 1, kernel := 0, mask := 1 }

/-- An RTI can tell what an entry wrote (R29): the codes of the two modes differ where it looks. True of the default. -/
def IsrLayout.Faithful (l : IsrLayout) : Prop := l.kernel &&& l.mask ≠ l.user &&& l.mask

/-- FETCH_COHERENCE (R4, R83, D30): the value that describes a machine. The other, `refuse_modified_code`, is a model's
silence, no behaviour (notes/assumptions/17.md). -/
inductive FetchCoherence where
  | immediate
  deriving DecidableEq, Repr, Inhabited

/-- IO_OTHER (R4, D29): the one behaviour the spec gives for I/O addresses without a device. What a device there that
the spec does not describe would remember shows only in reads, which are free (notes/assumptions/13.md). -/
inductive IoOther where
  | readsAnyWritesIgnored
  deriving DecidableEq, Repr, Inhabited

/-- The parameters of R4 that are settings; those that are open functions or draws are the opaque constants below. -/
structure Config where
  /-- NCTX, as the number of contexts beyond the 256 the source guarantees (R11, D17). -/
  moreContexts    : Nat
  doubleFault     : DoubleFaultAction
  branchUnit      : BranchUnit
  jalTarget       : JalTargetMode
  misalignedData  : MisalignedData
  misalignedPc    : MisalignedPc
  sprAddrHigh     : SprAddrHigh
  mmuLayout       : MmuLayout
  ppReserved      : ReservedPermission
  traceTiming     : TraceTiming
  hltWake         : HltWake
  brk             : BrkBehaviour
  /-- UART_TX_ADDR (R292, D28). -/
  uartTx          : BitVec 7
  /-- UART_RX_ADDR (R292, D28). -/
  uartRx          : BitVec 7
  ioOther         : IoOther
  fetchCoherence  : FetchCoherence
  isrLayout       : IsrLayout
  vectors         : VectorTable
  /-- PHYS_MAP: the first region that holds an address decides; an address in none is RAM. -/
  physMap         : List Region
  deriving DecidableEq, Repr, Inhabited

/-- NCTX (R4, R11): at least 256. -/
def Config.nctx (c : Config) : Nat := 256 + c.moreContexts

/-! ### What the spec leaves open: opaque constants

None has a body, so no proof can rest on a value of one. `freeWord` and its companions are the draws `any16()` and
`any1()` of R5: each is applied to State's counter `draws`, which moves on at every draw. -/

/-- MISALIGNED_DATA of the machine that `State.reset` describes: one of the three behaviours, not said which. -/
opaque Config.openMisalignedData : MisalignedData

/-- MISALIGNED_PC of the machine that `State.reset` describes. -/
opaque Config.openMisalignedPc : MisalignedPc

/-- SPR_ADDR_HIGH of the machine that `State.reset` describes. -/
opaque Config.openSprAddrHigh : SprAddrHigh

/-- MMU_PP_RESERVED of the machine that `State.reset` describes. -/
opaque Config.openPpReserved : ReservedPermission

/-- VEC of the machine that `State.reset` describes: OPEN in the spec (R273). -/
opaque Config.openVectors : VectorTable

/-- ICR_ENC (R27, D19) as proposed, an open function of the kind, of what is known of the event and of the mode before
the entry; `Machine.icrEncode` takes it where it names the kind (notes/assumptions/9.md). -/
opaque Config.icrEncoding : Machine.TrapKind → Machine.Mode → Word

/-- Which kind a value of ICR names, but for one value of each kind (`Machine.icrSample`). -/
opaque Config.icrClass : Word → Machine.EventKind

/-- An open rearrangement of the 16-bit values, as exchanges of two; it picks one value of ICR for each kind. -/
opaque Config.icrSwaps : List (Word × Word)

/-- A free 16-bit value (`any16()`). -/
opaque Config.freeWord : Nat → Word

/-- A free byte (what an unpopulated physical address or a device reads, spec/93_implementation_defined.md U32, R296). -/
opaque Config.freeByte : Nat → Byte

/-- Four free flags (`FLAGS_FN`, one `any1()` each). -/
opaque Config.freeFlags : Nat → Machine.Flags

/-- A free bit (`any1()`). -/
opaque Config.freeBit : Nat → Bool

/-- How far the free-running cycle counter has moved since the step before (R25, R290: no count is given). -/
opaque Config.freeCycles : Nat → BitVec 32

/-- A context (the second argument) as it stands after a reset that follows a double fault (R272, R323: unspecified). -/
opaque Config.freeBank : Nat → Nat → Machine.Bank

end Sys2Proof
end

