-- ==== Sys2Proof/Machine/Params.lean ====
section
/-! DEFINITION. The parameters of the machine that `State.reset` describes: the defaults of the table of
spec/00_scope.md R4, and an opaque constant wherever that table gives no default, or gives `refuse`. -/

namespace Sys2Proof.Machine

/-- R4's table of defaults. DESIGN CHOICE throughout, the spec's own (spec/92_eei_decisions.md): unsafe for a machine
that sets a parameter otherwise. Statements that need a setting take it as a premise on `State.cfg`. -/
def defaultConfig : Config where
  moreContexts   := 0
  doubleFault    := .halt
  branchUnit     := .instruction
  jalTarget      := .append
  misalignedData := Config.openMisalignedData
  misalignedPc   := Config.openMisalignedPc
  sprAddrHigh    := Config.openSprAddrHigh
  mmuLayout      := .frameLow
  ppReserved     := Config.openPpReserved
  traceTiming    := .after
  hltWake        := .never
  brk            := .hostServiceThenContinue
  uartTx         := 96
  uartRx         := 97
  ioOther        := .readsAnyWritesIgnored
  fetchCoherence := .immediate
  isrLayout      := .bit0
  vectors        := Config.openVectors
  physMap        := []

end Sys2Proof.Machine
end

