-- ==== Sys2Proof/Machine/State.lean ====
section
/-! DEFINITION. The machine's state as plain data: every piece of state of spec/10_state.md section 7, the inputs of
R39 that a deterministic step must find in the state, the record of references to devices (R296), and the model's own
counter of draws and record of parameters. Also the reasons a step stops, and the state after reset (spec/70_reset_and_hazards.md R320..R324). -/

namespace Sys2Proof.Machine

/-- Memory as (address, byte) pairs in one canonical form: addresses strictly rising, no entry equal to what an
unlisted address reads as (`Memory.wf`, Machine/Memory.lean). -/
abbrev Memory := List Host.Cell

/-- Why the machine stops with a fault. -/
inductive Fault where
  /-- Raised by a step of a halted machine that nothing wakes (R226, R272, R299): after HLT and after a double fault no
  instruction executes. Safe: the machine has no later state (spec/93_implementation_defined.md U23, U24). -/
  | halted
  deriving DecidableEq, Repr, Inhabited

/-- Why a step has no meaning. -/
inductive Refusal where
  /-- Raised by exec's arm of an instruction without a meaning; no arm is left that says it. Safe. -/
  | notModelled (mnemonic : String)
  /-- Raised by RTI into user mode, and by a step in user mode, when CONTEXT is 0 or names no context (R12, R31, R228;
  spec/93_implementation_defined.md U19: "refuse"). Safe. -/
  | userContext
  /-- Raised by an access to special registers 16..63 when CONTEXT names no context (R31; U19: "refuse"). Safe. -/
  | contextOutOfRange
  deriving DecidableEq, Repr, Inhabited

/-- The state of the WUT-4. -/
structure State where
  /-- R10. -/
  mode     : Mode
  /-- R15: the byte address of the instruction to be executed. -/
  pc       : Word
  /-- R17: interrupt enable, bit 9 of the kernel's flags word. -/
  ie       : Bool
  /-- R17: trap, bit 8 of the kernel's flags word. -/
  trap     : Bool
  /-- R38 (a). -/
  halted   : Bool
  /-- R11, R36: the general registers, LINK, flags and MMU registers of contexts 0, 1, 2, ..; a context past the end of
  the list is blank. `Config.nctx` says how many there are. -/
  banks    : List Bank
  /-- R31: special register 15. -/
  context  : Word
  /-- R26: special register 8. -/
  irr      : Word
  /-- R27: special register 9. -/
  icr      : Word
  /-- R28: special register 10. -/
  idr      : Word
  /-- R29: special register 11. -/
  isr      : Word
  /-- R25, R290: special registers 6 and 7. -/
  cycles   : BitVec 32
  /-- R37: physical memory. -/
  mem      : Memory
  /-- R38 (d), R292: the bytes the UART's peer has still to send, the next one first. -/
  uartIn   : List Byte
  /-- R38 (d), R292: the bytes sent, the first one first. -/
  uartOut  : List Byte
  /-- R80, R296: the references memory-mapped devices have been given, the first one first. The environment's. -/
  deviceRefs : List DeviceRef
  /-- R38 (b), R264: the input IRQ at the coming instruction boundaries, one bit each; 0 when the list is at its end.
  The environment's, not the processor's. -/
  irqInput : List Bool
  /-- The model's own: how many draws (R5) have been made. -/
  draws    : Nat
  /-- The model's own: the parameters of R4. No step changes it. -/
  cfg      : Config
  deriving DecidableEq, Repr

/-- The machine right after power-on reset. R320: kernel mode, pc 0, MMU registers 0 of the kernel 0, not halted.
R321: ie 0. R322: the counter 0. R324: the UART's output empty. Memory is the platform's (R324), here nothing listed
(DESIGN CHOICE, notes/assumptions/2.md). The UART's input is an argument in R324; here it is empty, DESIGN CHOICE, unsafe
(notes/assumptions/18.md): a claim about a run must hold for every input. No device has been referred to yet.
Every register whose reset value R323 leaves unspecified holds 0: DESIGN CHOICE, unsafe (notes/assumptions/1.md). -/
def State.reset : State where
  mode     := .kernel
  pc       := 0
  ie       := false
  trap     := false
  halted   := false
  banks    := List.replicate defaultConfig.nctx Bank.blank
  context  := 0
  irr      := 0
  icr      := 0
  idr      := 0
  isr      := 0
  cycles   := 0
  mem      := []
  uartIn   := []
  uartOut  := []
  deviceRefs := []
  irqInput := []
  draws    := 0
  cfg      := defaultConfig

end Sys2Proof.Machine
end

