-- ==== Sys2Proof/Machine/Memory.lean ====
section
/-! DEFINITION. Physical memory as a sparse list (spec/10_state.md R37): what one byte reads, writing one byte, and the
canonical form. -/

namespace Sys2Proof.Machine

/-- What an address that is not listed reads as. DESIGN CHOICE, unsafe (notes/assumptions/2.md): the spec's own default
for its programs is memory "zero filled" (D31); the platform decides (R324). -/
def Memory.unlisted : Byte := 0

/-- The byte at an address. -/
def Memory.read (m : Memory) (a : Nat) : Byte :=
  match m with
  | [] => Memory.unlisted
  | (k, b) :: rest => if k = a then b else Memory.read rest a

/-- The entry for `a` holding `b`, none when that is what an unlisted address reads as, before `rest`. -/
def Memory.entry (a : Nat) (b : Byte) (rest : Memory) : Memory :=
  if b = Memory.unlisted then rest else (a, b) :: rest

/-- Memory with the byte at `a` set to `b`, in canonical form if `m` is. -/
def Memory.write (m : Memory) (a : Nat) (b : Byte) : Memory :=
  match m with
  | [] => Memory.entry a b []
  | (k, x) :: rest =>
    if k < a then (k, x) :: Memory.write rest a b
    else if k = a then Memory.entry a b rest
    else Memory.entry a b ((k, x) :: rest)

/-- The canonical form of the entries above a bound: addresses strictly rising from `lo` on and inside the 24-bit
physical space, no entry an unlisted address would read. -/
def Memory.wfFrom (lo : Nat) : Memory → Bool
  | [] => true
  | (k, b) :: rest => decide (lo ≤ k) && decide (k < 2 ^ 24) && decide (b ≠ Memory.unlisted) && Memory.wfFrom (k + 1) rest

/-- The canonical form. -/
def Memory.wf (m : Memory) : Bool := Memory.wfFrom 0 m

end Sys2Proof.Machine
end

