-- ==== Sys2Proof/Machine/Ops.lean ====
section
/-! DEFINITION. The shared operations: registers of the current bank, the end of an instruction, draws, taking an
exception and returning from one, translation, and the memory primitives of spec/20_memory.md. -/

namespace Sys2Proof.Machine

/-! ### Banks and registers (R11..R16) -/

/-- The number of the bank whose registers the running code sees (R12). -/
def State.bankNo (s : State) : Nat :=
  match s.mode with
  | .kernel => 0
  | .user => s.context.toNat

/-- Whether CONTEXT names a user context: nonzero and below NCTX (R12, R31). -/
def State.userContextOk (s : State) : Bool := decide (0 < s.context.toNat) && decide (s.context.toNat < s.cfg.nctx)

/-- Whether the current bank is one a model gives a meaning to (R12, R31). -/
def State.bankOk (s : State) : Bool :=
  match s.mode with
  | .kernel => true
  | .user => s.userContextOk

/-- Context `c` of a list; blank past its end. -/
def bankGet : List Bank → Nat → Bank
  | [], _ => Bank.blank
  | b :: _, 0 => b
  | _ :: rest, c + 1 => bankGet rest c

/-- Context `c` of a list replaced. -/
def bankPut : List Bank → Nat → Bank → List Bank
  | [], 0, b => [b]
  | [], c + 1, b => Bank.blank :: bankPut [] c b
  | _ :: rest, 0, b => b :: rest
  | x :: rest, c + 1, b => x :: bankPut rest c b

/-- The registers of context `c`. -/
def State.bankAt (s : State) (c : Nat) : Bank := bankGet s.banks c

/-- Context `c` replaced; nothing when there is no context `c` (R11). -/
def State.setBankAt (s : State) (c : Nat) (b : Bank) : State :=
  { s with banks := if c < s.cfg.nctx then bankPut s.banks c b else s.banks }

/-- The current bank (R12). -/
def State.bank (s : State) : Bank := s.bankAt s.bankNo

/-- The current bank replaced. -/
def State.setBank (s : State) (b : Bank) : State := s.setBankAt s.bankNo b

/-- Where register r1..r7 stands in a bank. -/
def regIndex (r : Reg) : Fin 7 := ⟨r.val - 1, by omega⟩

/-- General register `r` of a bank; register 0 reads 0 (R13). -/
def Bank.reg (b : Bank) (r : Reg) : Word := if r = 0 then 0 else b.regs.get (regIndex r)

/-- General register `r` of a bank written; a write of register 0 is discarded (R13). -/
def Bank.setReg (b : Bank) (r : Reg) (v : Word) : Bank :=
  if r = 0 then b else { b with regs := b.regs.set (regIndex r).val v }

/-- `x[r]` (R5, R13). -/
def State.reg (s : State) (r : Reg) : Word := s.bank.reg r

/-- `x[r] <- v` (R5, R13). -/
def State.setReg (s : State) (r : Reg) (v : Word) : State := s.setBank (s.bank.setReg r v)

/-- LINK of the current bank (R14). -/
def State.link (s : State) : Word := s.bank.link

/-- `LINK <- v` in the current bank (R14). -/
def State.setLink (s : State) (v : Word) : State := s.setBank { s.bank with link := v }

/-- `xl[r]`: field 0 is LINK of the current bank (R5, R14, D42). -/
def State.regOrLink (s : State) (r : Reg) : Word := if r = 0 then s.link else s.reg r

/-- `xl[r] <- v` (R5, R14). -/
def State.setRegOrLink (s : State) (r : Reg) (v : Word) : State := if r = 0 then s.setLink v else s.setReg r v

/-- C, Z, N, V of the current bank (R16). -/
def State.flags (s : State) : Flags := s.bank.flags

/-- C, Z, N, V of the current bank written. -/
def State.setFlags (s : State) (f : Flags) : State := s.setBank { s.bank with flags := f }

/-- `pc <- pc + 2`: the end of an instruction that does not transfer control (R5, R15). -/
def State.advance (s : State) : State := { s with pc := s.pc + 2 }

/-- `pc <- a`. -/
def State.jump (s : State) (a : Word) : State := { s with pc := a }

/-- One more draw made (R5). -/
def State.drawn (s : State) : State := { s with draws := s.draws + 1 }

/-- The free value `any16()` of this moment; the caller goes on with `drawn`. -/
def State.anyWord (s : State) : Word := Config.freeWord s.draws

/-- Four free flags of this moment (FLAGS_FN). -/
def State.anyFlags (s : State) : Flags := Config.freeFlags s.draws

/-- The free bit `any1()` of this moment. -/
def State.anyBit (s : State) : Bool := Config.freeBit s.draws

/-! ### What an operation answers -/

/-- An operation's answer: a value and the state so far, a trap raised in a state (R5: with none of the instruction's
writes done), or no meaning. -/
inductive Res (α : Type) where
  | ok (v : α) (s : State)
  | raise (k : TrapKind) (s : State)
  | refuse (r : Refusal)
  deriving Repr

/-- One operation after another. -/
def Res.bind {α β : Type} (m : Res α) (f : α → State → Res β) : Res β :=
  match m with
  | .ok v s => f v s
  | .raise k s => .raise k s
  | .refuse r => .refuse r

/-! ### Taking an exception and returning from one (R270, R272, R228) -/

/-- ISR_ENC (R29, D19). -/
def isrEncode (l : IsrLayout) : Mode → Word
  | .kernel => l.kernel
  | .user => l.user

/-- ISR_DEC (R29, D19): user exactly when the bits looked at are those of `user`. -/
def isrDecode (l : IsrLayout) (w : Word) : Mode := if w &&& l.mask = l.user &&& l.mask then .user else .kernel

/-- A word after the exchanges of a list, each of two words. -/
def swapWords : List (Word × Word) → Word → Word
  | [], w => w
  | (a, b) :: rest, w => swapWords rest (if w = a then b else if w = b then a else w)

/-- The number of a kind, in the order of R261's table. -/
def EventKind.number : EventKind → Word
  | .illegalInstruction => 0
  | .pageFault => 1
  | .sys => 2
  | .trace => 3
  | .interrupt => 4
  | .misaligned => 5

/-- One value of ICR that names a kind: open, but no two kinds share it. -/
def icrSample (e : EventKind) : Word := swapWords Config.icrSwaps e.number

/-- The kind that a value of ICR names (D19: the kinds are distinguished). -/
def icrNames (w : Word) : EventKind :=
  if w = icrSample .illegalInstruction then .illegalInstruction
  else if w = icrSample .pageFault then .pageFault
  else if w = icrSample .sys then .sys
  else if w = icrSample .trace then .trace
  else if w = icrSample .interrupt then .interrupt
  else if w = icrSample .misaligned then .misaligned
  else Config.icrClass w

/-- ICR_ENC (R27, R261, R270, D19): open, but for what D19 requires, that it distinguishes the kinds. Every such encoding is
one of these (notes/assumptions/9.md): the proposed value where it names the kind, else one that does. -/
def icrEncode (k : TrapKind) (m : Mode) : Word :=
  if icrNames (Config.icrEncoding k m) = k.event then Config.icrEncoding k m else icrSample k.event

/-- Whether the kind is a trap, fault or exception: every kind but the interrupt (R261). -/
def TrapKind.isTfe : TrapKind → Bool
  | .interrupt => false
  | _ => true

/-- The vector number: 8 + n for SYS n, 1..7 from the table VEC for the others (R261, R273). -/
def TrapKind.vector (t : VectorTable) : TrapKind → Nat
  | .illegalInstruction => 1 + t.illegalInstruction.val
  | .pageFault _ _ => 1 + t.pageFault.val
  | .sys n => 8 + n.val
  | .trace => 1 + t.trace.val
  | .interrupt => 1 + t.interrupt.val
  | .misaligned _ _ => 1 + t.misaligned.val

/-- Vector k is at kernel code address 4k (R69, R273). -/
def vectorAddress (k : Nat) : Word := BitVec.ofNat 16 (4 * k)

/-- What IRR receives (R261, D20): the address of the instruction after a SYS; the pc of the moment for the others. -/
def TrapKind.returnPc (k : TrapKind) (pc : Word) : Word :=
  match k with
  | .sys _ => pc + 2
  | _ => pc

/-- The fault address an entry records in IDR, for the kinds that have one (R28, R261, D21). -/
def TrapKind.faultAddress : TrapKind → Option Word
  | .pageFault va _ => some va
  | .misaligned va _ => some va
  | _ => none

/-- A context whose MMU registers 0 are loaded with 0 (R320). -/
def Bank.withSlot0 (b : Bank) : Bank := { b with cmmu := b.cmmu.set 0 0, dmmu := b.dmmu.set 0 0 }

/-- Every context after such a reset: MMU registers 0 of the kernel are 0, everything else is free (R320, R323). -/
def State.freshBanks (s : State) : List Bank :=
  (Config.freeBank s.draws 0).withSlot0 ::
    (List.range (s.cfg.nctx - 1)).map fun c => Config.freeBank s.draws (c + 1)

/-- The reset that answers a double fault where DOUBLE_FAULT_ACTION is `reset` (R272, R320): what R320 and R321 fix is
set, every register they do not fix is free (R323), memory, streams, inputs and the devices' record stay (R324). -/
def State.resetAgain (s : State) : State :=
  { s with
    mode := .kernel, pc := 0, ie := false, halted := false
    trap := Config.freeBit s.draws
    banks := s.freshBanks
    context := Config.freeWord s.draws
    irr := Config.freeWord (s.draws + 1)
    icr := Config.freeWord (s.draws + 2)
    idr := Config.freeWord (s.draws + 3)
    isr := Config.freeWord (s.draws + 4)
    cycles := Config.freeCycles s.draws
    draws := s.draws + 5 }

/-- A TFE in kernel mode with ie = 0 (R272). -/
def State.doubleFault (s : State) : State :=
  match s.cfg.doubleFault with
  | .halt => { s with halted := true }
  | .reset => s.resetAgain

/-- Whether an entry of kind `k` would be a double fault (R270, R272). -/
def State.isDoubleFault (s : State) (k : TrapKind) : Bool := k.isTfe && decide (s.mode = .kernel) && !s.ie

/-- The registers and the pc as a vectored entry leaves them (R270), IDR aside. -/
def State.vectored (s : State) (k : TrapKind) : State :=
  { s with
    irr := k.returnPc s.pc
    isr := isrEncode s.cfg.isrLayout s.mode
    icr := icrEncode k s.mode
    mode := .kernel
    ie := false
    pc := vectorAddress (k.vector s.cfg.vectors) }

/-- `Enter(K, irr)` (R270): taking an interrupt, trap, fault or exception. IDR receives the fault address, and a free
value for the kinds that have none (D21). -/
def State.enter (s : State) (k : TrapKind) : State :=
  if s.isDoubleFault k then s.doubleFault
  else
    match k.faultAddress with
    | some va => { s.vectored k with idr := va }
    | none => { (s.vectored k).drawn with idr := s.anyWord }

/-- Returning from an interrupt, trap, fault or exception (R228, R276): the mode from ISR, the pc from IRR, ie 1.
Entering user mode with CONTEXT 0 or out of range is refused (R228). -/
def State.returnFromTrap (s : State) : Res Unit :=
  match isrDecode s.cfg.isrLayout s.isr with
  | .kernel => .ok () { s with mode := .kernel, pc := s.irr, ie := true }
  | .user =>
    if s.userContextOk then .ok () { s with mode := .user, pc := s.irr, ie := true }
    else .refuse .userContext

/-- The outcome of an instruction whose operations answer `m`: a trap that was raised is entered (R262). -/
def Res.run (m : Res Unit) : Host.Outcome State Fault Refusal :=
  match m with
  | .ok _ s => .next s
  | .raise k s => .next (s.enter k)
  | .refuse r => .refused r

/-- The mode check of the privileged instructions (R231): in user mode the illegal instruction trap, nothing done. -/
def State.privileged (s : State) (m : Res Unit) : Res Unit :=
  match s.mode with
  | .kernel => m
  | .user => .raise .illegalInstruction s

/-! ### Translation (R70..R73) -/

/-- Bits 23:12 of the physical address, from an MMU register (R70, D14). -/
def frameOf (l : MmuLayout) (e : Word) : BitVec 12 :=
  match l with
  | .frameLow => e.extractLsb' 0 12
  | .frameHigh => e.extractLsb' 4 12

/-- The permission bits PP of an MMU register (R70, D14). -/
def permissionOf (l : MmuLayout) (e : Word) : BitVec 2 :=
  match l with
  | .frameLow => e.extractLsb' 12 2
  | .frameHigh => e.extractLsb' 0 2

/-- What an access of each kind does where PP is the reserved value 10 (R72, D15). -/
def reservedFaults (p : ReservedPermission) : Access → Bool
  | .fetch => p.fetchFaults
  | .codeRead => p.codeReadFaults
  | .dataRead => p.dataReadFaults
  | .dataWrite => p.dataWriteFaults

/-- The permission table of R72: whether an access faults. -/
def permissionFaults (p : ReservedPermission) (pp : BitVec 2) (acc : Access) : Bool :=
  if pp = 0b11 then true
  else if pp = 0b10 then reservedFaults p acc
  else if pp = 0b01 then decide (acc = .dataWrite)
  else false

/-- The MMU register that translates an access: code space for a fetch and for LCW, data space otherwise (R61, R71). -/
def State.mmuEntry (s : State) (va : Word) (acc : Access) : Word :=
  match acc with
  | .fetch => s.bank.cmmu.get (pageOf va)
  | .codeRead => s.bank.cmmu.get (pageOf va)
  | .dataRead => s.bank.dmmu.get (pageOf va)
  | .dataWrite => s.bank.dmmu.get (pageOf va)

/-- `Translate` (R71): the physical address, or the page fault. -/
def State.translate (s : State) (va : Word) (acc : Access) : Except TrapKind PhysAddr :=
  if permissionFaults s.cfg.ppReserved (permissionOf s.cfg.mmuLayout (s.mmuEntry va acc)) acc then
    .error (.pageFault va acc)
  else .ok (frameOf s.cfg.mmuLayout (s.mmuEntry va acc) ++ pageOffset va)

/-! ### Physical references (R66, R77; D31, U32) -/

/-- The kind of the first region that holds an address; RAM where none does. -/
def regionKind : List Region → Nat → RegionKind
  | [], _ => .ram
  | r :: rest, a => if r.base ≤ a ∧ a < r.base + r.size then r.kind else regionKind rest a

/-- What stands at a physical address (PHYS_MAP). -/
def State.kindAt (s : State) (pa : PhysAddr) : RegionKind := regionKind s.cfg.physMap pa.toNat

/-- The byte stored at a physical address: what RAM and ROM read there. -/
def State.byteAt (s : State) (pa : PhysAddr) : Byte := Memory.read s.mem pa.toNat

/-- The byte stored at a physical address, set. -/
def State.setByteAt (s : State) (pa : PhysAddr) (b : Byte) : State := { s with mem := Memory.write s.mem pa.toNat b }

/-- A reference that a device has been given (R296). -/
def State.referred (s : State) (r : DeviceRef) : State := { s with deviceRefs := s.deviceRefs ++ [r] }

/-- A reference that reads one byte: RAM and ROM their storage, an unpopulated address a free value (U32), a device a free
value, the reference recorded (R68, R296; notes/assumptions/47.md). -/
def State.readPhys (s : State) (pa : PhysAddr) : Res Byte :=
  match s.kindAt pa with
  | .ram => .ok (s.byteAt pa) s
  | .rom => .ok (s.byteAt pa) s
  | .unpopulated => .ok (Config.freeByte s.draws) s.drawn
  | .device => .ok (Config.freeByte s.draws) (s.drawn.referred (.readByte pa (Config.freeByte s.draws)))

/-- A reference that writes one byte: RAM stores it, ROM and an unpopulated address ignore it (U32), a device is given it
(R296). -/
def State.writePhys (s : State) (pa : PhysAddr) (b : Byte) : State :=
  match s.kindAt pa with
  | .ram => s.setByteAt pa b
  | .rom => s
  | .unpopulated => s
  | .device => s.referred (.writeByte pa b)

/-- Whether the two bytes of a word access are one reference to a device: an aligned word, both bytes of it a device's
(R66). -/
def State.deviceWord (s : State) (p : PhysAddr × PhysAddr) : Bool :=
  !p.1.getLsbD 0 && decide (p.2 = p.1 + 1) && decide (s.kindAt p.1 = .device) && decide (s.kindAt p.2 = .device)

/-! ### The memory primitives (R74..R76) -/

/-- The physical addresses of a word's low and high byte when the word is at an even virtual address: one page, one
translation (R65). -/
def State.alignedPair (s : State) (addr : Word) (acc : Access) : Except TrapKind (PhysAddr × PhysAddr) :=
  match s.translate addr acc with
  | .ok pa => .ok (pa, pa + 1)
  | .error k => .error k

/-- `split` (D6): two byte references, each translated, both before either is made. -/
def State.splitPair (s : State) (addr : Word) (acc : Access) : Except TrapKind (PhysAddr × PhysAddr) :=
  match s.translate addr acc with
  | .error k => .error k
  | .ok lo =>
    match s.translate (addr + 1) acc with
    | .error k => .error k
    | .ok hi => .ok (lo, hi)

/-- Where the two bytes of a word access of LDW, STW, LSI, SSI or LCW stand, low byte first, or the trap it raises
before any reference: MISALIGNED_DATA where the address is odd (R65, R74..R76, D6). DESIGN CHOICE
(notes/assumptions/4.md): a page fault under `ignoreBit0` records in IDR the even address that was translated, one under
`split` the address of the byte whose translation failed, where R266 says only that va is the effective address. -/
def State.wordPair (s : State) (addr : Word) (acc : Access) : Except TrapKind (PhysAddr × PhysAddr) :=
  if isEven addr then s.alignedPair addr acc
  else
    match s.cfg.misalignedData with
    | .fault => .error (.misaligned addr acc)
    | .ignoreBit0 => s.alignedPair (clearBit0 addr) acc
    | .split => s.splitPair addr acc

/-- Where the two bytes of the instruction at `addr` stand: MISALIGNED_PC where it is odd (R76, D7). -/
def State.fetchPair (s : State) (addr : Word) : Except TrapKind (PhysAddr × PhysAddr) :=
  if isEven addr then s.alignedPair addr .fetch
  else
    match s.cfg.misalignedPc with
    | .fault => .error (.misaligned addr .fetch)
    | .ignoreBit0 => s.alignedPair (clearBit0 addr) .fetch

/-- The references of a word read, little endian (R63): a device's word in one reference, every other word byte by
byte. -/
def State.readPair (s : State) (p : PhysAddr × PhysAddr) : Res Word :=
  if s.deviceWord p then .ok s.anyWord (s.drawn.referred (.readWord p.1 s.anyWord))
  else (s.readPhys p.1).bind fun lo s1 => (s1.readPhys p.2).bind fun hi s2 => .ok (joinBytes lo hi) s2

/-- The references of a word write, little endian (R63), as of a word read. -/
def State.writePair (s : State) (p : PhysAddr × PhysAddr) (v : Word) : State :=
  if s.deviceWord p then s.referred (.writeWord p.1 v)
  else (s.writePhys p.1 (lowByte v)).writePhys p.2 (highByte v)

/-- What a checked access goes on to do: raise the trap, or make its references (R66). -/
def State.checked {α β : Type} (s : State) (e : Except TrapKind α) (f : α → Res β) : Res β :=
  match e with
  | .error k => .raise k s
  | .ok a => f a

/-- `MemRead(addr, 2)` (R74) for acc = dataRead; LCW's `CodeRead(addr)` (R76) for acc = codeRead. -/
def State.readWord (s : State) (addr : Word) (acc : Access) : Res Word := s.checked (s.wordPair addr acc) s.readPair

/-- `MemRead(addr, 1)` (R74). -/
def State.readByte (s : State) (addr : Word) : Res Byte := s.checked (s.translate addr .dataRead) s.readPhys

/-- `MemWrite(addr, 2, v)` (R75). -/
def State.writeWord (s : State) (addr v : Word) : Res Unit :=
  s.checked (s.wordPair addr .dataWrite) fun p => .ok () (s.writePair p v)

/-- `MemWrite(addr, 1, v)` (R75). -/
def State.writeByte (s : State) (addr : Word) (b : Byte) : Res Unit :=
  s.checked (s.translate addr .dataWrite) fun pa => .ok () (s.writePhys pa b)

/-- `CodeRead(pc)`: the instruction fetch (R76, R262), which sees every earlier store (FETCH_COHERENCE, R83). -/
def State.fetch (s : State) : Res Word :=
  match s.cfg.fetchCoherence with
  | .immediate => s.checked (s.fetchPair s.pc) s.readPair

end Sys2Proof.Machine
end

