-- ==== Sys2Proof/Machine/Flags.lean ====
section
/-! DEFINITION. The flag computations: the one adder (spec/00_scope.md R6), the flags of the logic, extension and shift
instructions (spec/10_state.md R16), the branch conditions (R150) and the flags word (R23). -/

namespace Sys2Proof.Machine

/-- `AddC(a, b, cin)` (R6): the 16-bit result and the flags C, Z, N, V. -/
def addC (a b : Word) (cin : Bool) : Word × Flags :=
  let sum := a.toNat + b.toNat + cin.toNat
  let r : Word := BitVec.ofNat 16 sum
  (r, { c := decide (2 ^ 16 ≤ sum), z := decide (r = 0), n := r.msb, v := (a.msb == b.msb) && (r.msb != a.msb) })

/-- Subtraction `a - b`: `AddC(a, ~b, 1)`, so that C = 1 means no borrow (R6). -/
def subtract (a b : Word) : Word × Flags := addC a (~~~b) true

/-- Subtraction with borrow, the borrow in being the complement of C (R6, R160). -/
def subtractBorrow (a b : Word) (c : Bool) : Word × Flags := addC a (~~~b) c

/-- XOR, OR, AND (R164..R166): Z and N from the result, C and V open. -/
def logicFlags (r : Word) (free : Flags) : Flags := { c := free.c, z := decide (r = 0), n := r.msb, v := free.v }

/-- ZXT, SXT, DUB (R202, R203, R206): C cleared, Z from the 16-bit result, N and V open. -/
def extendFlags (r : Word) (free : Flags) : Flags := { c := false, z := decide (r = 0), n := free.n, v := free.v }

/-- SRA, SRL (R204, R205): C is the bit shifted out, Z, N and V open. -/
def shiftFlags (lost : Bool) (free : Flags) : Flags := { c := lost, z := free.z, n := free.n, v := free.v }

/-- The condition table of BRx (R150), by the selector's number 0..7. -/
def branchTaken (cond : Fin 8) (f : Flags) : Bool :=
  match cond.val with
  | 0 => true
  | 1 => true
  | 2 => f.z
  | 3 => !f.z
  | 4 => f.c
  | 5 => !f.c
  | 6 => f.n == f.v
  | _ => f.n != f.v

/-- Bits 3:0 of the flags word: V : N : Z : C (R23). -/
def flagBits (f : Flags) : BitVec 4 := BitVec.ofBool f.v ++ BitVec.ofBool f.n ++ BitVec.ofBool f.z ++ BitVec.ofBool f.c

/-- The flags that bits 3:0 of a word written to special register 1 give (R23). -/
def flagsOfWord (v : Word) : Flags := { c := v.getLsbD 0, z := v.getLsbD 1, n := v.getLsbD 2, v := v.getLsbD 3 }

/-- Special register 1 as user mode reads it (R23): the flags in bits 3:0, bits 15:4 open. -/
def userFlagsWord (f : Flags) (free : Word) : Word := free.extractLsb' 4 12 ++ flagBits f

/-- Special register 1 as kernel mode reads it (R23): the flags in bits 3:0, t in bit 8, ie in bit 9, bits 7:4 and
15:10 open. -/
def kernelFlagsWord (f : Flags) (t ie : Bool) (free : Word) : Word :=
  free.extractLsb' 10 6 ++ BitVec.ofBool ie ++ BitVec.ofBool t ++ free.extractLsb' 4 4 ++ flagBits f

end Sys2Proof.Machine
end

