-- ==== Sys2Proof/Machine/Operands.lean ====
section
/-! DEFINITION. The operand forms: the effective address of the loads and stores, the LUI immediate, the targets of BRx
and JAL, and the results of the single-operand instructions. -/

namespace Sys2Proof.Machine

/-- The effective address `x[rB] + sext_16(imm7)`, modulo 2^16 (spec/40_load_store.md). -/
def State.effectiveAddress (s : State) (rB : Reg) (imm7 : BitVec 7) : Word := s.reg rB + sext7 imm7

/-- `imm10 : 0b000000` (R103 (b), R141). -/
def upperImmediate (imm10 : BitVec 10) : Word := imm10 ++ 0#6

/-- The displacement in bytes of a BRx: BR_OFFSET_UNIT times the signed immediate (R103 (c), R150). -/
def branchDisplacement (u : BranchUnit) (imm10 : BitVec 10) : Word :=
  match u with
  | .instruction => 2 * sext10 imm10
  | .byte => sext10 imm10

/-- The target of a taken BRx (R150). -/
def State.branchTarget (s : State) (imm10 : BitVec 10) : Word := s.pc + 2 + branchDisplacement s.cfg.branchUnit imm10

/-- The target of a JAL (R151): the base's high ten bits with the immediate appended, or the sum, as JAL_TARGET_MODE
says. -/
def jalTarget (m : JalTargetMode) (base : Word) (imm6 : BitVec 6) : Word :=
  match m with
  | .append => base.extractLsb' 6 10 ++ imm6
  | .add => base + imm6.setWidth 16

/-- ZXT: zero and the low byte (R202). -/
def zeroExtendLow (w : Word) : Word := zext8 (lowByte w)

/-- SXT: the low byte sign-extended (R203). -/
def signExtendLow (w : Word) : Word := sext8 (lowByte w)

/-- SRA: one place right, bit 15 kept (R204). -/
def shiftRightArith (w : Word) : Word := w.extractLsb' 15 1 ++ w.extractLsb' 1 15

/-- SRL: one place right, zero into bit 15 (R205). -/
def shiftRightLogical (w : Word) : Word := 0#1 ++ w.extractLsb' 1 15

/-- DUB: the upper byte in both halves (R206). -/
def duplicateUpper (w : Word) : Word := highByte w ++ highByte w

end Sys2Proof.Machine
end

