-- ==== Sys2Proof/Machine/Alu.lean ====
section
/-! DEFINITION. The XOPs (spec/43_xop_alu.md R160..R167): sources x[rB] and x[rC], destination x[rA], field 0 being zero
as a source and the black hole as a destination; all four flags are written. -/

namespace Sys2Proof.Machine

/-- A result and its flags written to the current bank, and the next instruction (R167). -/
def State.putResult (s : State) (rA : Reg) (p : Word × Flags) : State := ((s.setReg rA p.1).setFlags p.2).advance

/-- A logic instruction (R164..R166): C and V are open, so one draw is made. -/
def State.logic (s : State) (rA : Reg) (r : Word) : State := s.drawn.putResult rA (r, logicFlags r s.anyFlags)

/-- SBB (R160). -/
def execSbb (rA rB rC : Reg) (s : State) : Host.Outcome State Fault Refusal :=
  .next (s.putResult rA (subtractBorrow (s.reg rB) (s.reg rC) s.flags.c))

/-- ADC (R161). -/
def execAdc (rA rB rC : Reg) (s : State) : Host.Outcome State Fault Refusal :=
  .next (s.putResult rA (addC (s.reg rB) (s.reg rC) s.flags.c))

/-- SUB (R162). -/
def execSub (rA rB rC : Reg) (s : State) : Host.Outcome State Fault Refusal :=
  .next (s.putResult rA (subtract (s.reg rB) (s.reg rC)))

/-- ADD (R163). -/
def execAdd (rA rB rC : Reg) (s : State) : Host.Outcome State Fault Refusal :=
  .next (s.putResult rA (addC (s.reg rB) (s.reg rC) false))

/-- XOR (R164). -/
def execXor (rA rB rC : Reg) (s : State) : Host.Outcome State Fault Refusal :=
  .next (s.logic rA (s.reg rB ^^^ s.reg rC))

/-- OR (R165). -/
def execOr (rA rB rC : Reg) (s : State) : Host.Outcome State Fault Refusal :=
  .next (s.logic rA (s.reg rB ||| s.reg rC))

/-- AND (R166). -/
def execAnd (rA rB rC : Reg) (s : State) : Host.Outcome State Fault Refusal :=
  .next (s.logic rA (s.reg rB &&& s.reg rC))

end Sys2Proof.Machine
end

