-- ==== Sys2Proof/Machine/Branch.lean ====
section
/-! DEFINITION. The eight forms of BRx, and JAL (spec/42_branch_jump.md R150, R151). No flag changes. -/

namespace Sys2Proof.Machine

/-- A BRx that writes no register: to its target when the condition holds, else to the next instruction (R150). -/
def State.branch (s : State) (cond : Fin 8) (imm10 : BitVec 10) : State :=
  if branchTaken cond s.flags then s.jump (s.branchTarget imm10) else s.advance

/-- BRx cond 0, "unconditional branch" (R150). -/
def execBrAlways (imm10 : BitVec 10) (s : State) : Host.Outcome State Fault Refusal := .next (s.branch 0 imm10)

/-- BRx cond 1, "unconditional branch to subroutine; writes link register" with the address of the next instruction
(R150, D11). -/
def execBrLink (imm10 : BitVec 10) (s : State) : Host.Outcome State Fault Refusal :=
  .next ((s.setLink (s.pc + 2)).jump (s.branchTarget imm10))

/-- BRx cond 2, "eq / z" (R150). -/
def execBrEq (imm10 : BitVec 10) (s : State) : Host.Outcome State Fault Refusal := .next (s.branch 2 imm10)

/-- BRx cond 3, "neq / nz" (R150). -/
def execBrNe (imm10 : BitVec 10) (s : State) : Host.Outcome State Fault Refusal := .next (s.branch 3 imm10)

/-- BRx cond 4, "uge / c" (R150). -/
def execBrUge (imm10 : BitVec 10) (s : State) : Host.Outcome State Fault Refusal := .next (s.branch 4 imm10)

/-- BRx cond 5, "ult / nc" (R150). -/
def execBrUlt (imm10 : BitVec 10) (s : State) : Host.Outcome State Fault Refusal := .next (s.branch 5 imm10)

/-- BRx cond 6, "sge" (R150). -/
def execBrSge (imm10 : BitVec 10) (s : State) : Host.Outcome State Fault Refusal := .next (s.branch 6 imm10)

/-- BRx cond 7, "slt" (R150). -/
def execBrSlt (imm10 : BitVec 10) (s : State) : Host.Outcome State Fault Refusal := .next (s.branch 7 imm10)

/-- JAL (R151): the base is read before rA is written; field 0 is LINK in both places. -/
def execJal (rA rB : Reg) (imm6 : BitVec 6) (s : State) : Host.Outcome State Fault Refusal :=
  .next ((s.setRegOrLink rA (s.pc + 2)).jump (jalTarget s.cfg.jalTarget (s.regOrLink rB) imm6))

end Sys2Proof.Machine
end

