-- ==== Sys2Proof/Machine/Immediate.lean ====
section
/-! DEFINITION. ADI and LUI (spec/41_adi_lui.md R140, R141): destination field 0 is LINK; ADI's source field 0 is
zero. -/

namespace Sys2Proof.Machine

/-- What `AddC` gives ADI (R140). -/
def State.adiResult (s : State) (rB : Reg) (imm7 : BitVec 7) : Word × Flags := addC (s.reg rB) (sext7 imm7) false

/-- ADI (R140). -/
def execAdi (rA rB : Reg) (imm7 : BitVec 7) (s : State) : Host.Outcome State Fault Refusal :=
  .next (((s.setRegOrLink rA (s.adiResult rB imm7).1).setFlags (s.adiResult rB imm7).2).advance)

/-- LUI (R141): no flag changes. -/
def execLui (rA : Reg) (imm10 : BitVec 10) (s : State) : Host.Outcome State Fault Refusal :=
  .next (s.setRegOrLink rA (upperImmediate imm10)).advance

end Sys2Proof.Machine
end

