-- ==== Sys2Proof/Machine/LoadStore.lean ====
section
/-! DEFINITION. LDW, LDB, STW, STB (spec/40_load_store.md R130..R133). Register field 0 is zero as base or store source
and discards a loaded value (D12); no flag is read or written. -/

namespace Sys2Proof.Machine

/-- What a load does with the value its reference gave: `x[rA] <- v`, and the next instruction. -/
def Res.intoReg (m : Res Word) (rA : Reg) : Res Unit := m.bind fun v s => .ok () (s.setReg rA v).advance

/-- The next instruction, after an operation that gives no value. -/
def Res.thenAdvance (m : Res Unit) : Res Unit := m.bind fun _ s => .ok () s.advance

/-- LDW (R130). -/
def execLdw (rA rB : Reg) (imm7 : BitVec 7) (s : State) : Host.Outcome State Fault Refusal :=
  ((s.readWord (s.effectiveAddress rB imm7) .dataRead).intoReg rA).run

/-- LDB (R131): the byte sign-extended. -/
def execLdb (rA rB : Reg) (imm7 : BitVec 7) (s : State) : Host.Outcome State Fault Refusal :=
  (((s.readByte (s.effectiveAddress rB imm7)).bind fun b s1 => .ok (sext8 b) s1).intoReg rA).run

/-- STW (R132). -/
def execStw (rA rB : Reg) (imm7 : BitVec 7) (s : State) : Host.Outcome State Fault Refusal :=
  (s.writeWord (s.effectiveAddress rB imm7) (s.reg rA)).thenAdvance.run

/-- STB (R133): bits 7:0 of the source. -/
def execStb (rA rB : Reg) (imm7 : BitVec 7) (s : State) : Host.Outcome State Fault Refusal :=
  (s.writeByte (s.effectiveAddress rB imm7) (lowByte (s.reg rA))).thenAdvance.run

end Sys2Proof.Machine
end

