-- ==== Sys2Proof/Machine/System.lean ====
section
/-! DEFINITION. The VOPs and the illegal word (spec/46_vop_system.md R220..R231). -/

namespace Sys2Proof.Machine

/-- The word 0x0000 (R230): an illegal instruction in both modes, no memory reference. -/
def execIllegal0 (s : State) : Host.Outcome State Fault Refusal := .next (s.enter .illegalInstruction)

/-- C of the current bank written, the other flags kept (R220, R221). -/
def State.setCarry (s : State) (c : Bool) : State := s.setFlags { s.flags with c := c }

/-- CCF (R220). -/
def execCcf (s : State) : Host.Outcome State Fault Refusal := .next (s.setCarry false).advance

/-- SCF (R221). -/
def execScf (s : State) : Host.Outcome State Fault Refusal := .next (s.setCarry true).advance

/-- ie written (R222, R223). -/
def State.setIe (s : State) (b : Bool) : State := { s with ie := b }

/-- The processor stopped (R226, R272). -/
def State.halt (s : State) : State := { s with halted := true }

/-- DI (R222). -/
def execDi (s : State) : Host.Outcome State Fault Refusal := (s.privileged (.ok () (s.setIe false).advance)).run

/-- EI (R223). -/
def execEi (s : State) : Host.Outcome State Fault Refusal := (s.privileged (.ok () (s.setIe true).advance)).run

/-- HLT (R226): halted, the pc past the HLT. -/
def execHlt (s : State) : Host.Outcome State Fault Refusal := (s.privileged (.ok () s.halt.advance)).run

/-- BRK (R227), as BRK_BEHAVIOUR says: no architectural effect, an illegal instruction, or a stop. -/
def execBrk (s : State) : Host.Outcome State Fault Refusal :=
  match s.cfg.brk with
  | .hostServiceThenContinue => .next s.advance
  | .illegal => .next (s.enter .illegalInstruction)
  | .stop => .next s.halt.advance

/-- RTI (R228). -/
def execRti (s : State) : Host.Outcome State Fault Refusal := (s.privileged s.returnFromTrap).run

/-- DIE (R229). -/
def execDie (s : State) : Host.Outcome State Fault Refusal := .next (s.enter .illegalInstruction)

end Sys2Proof.Machine
end

