-- ==== Sys2Proof/Machine/Unary.lean ====
section
/-! DEFINITION. The ZOPs (spec/45_zop_unary.md R200..R207): one register, source and destination; with rA = 0 the operand
is zero, the result is dropped and the flags are still written. Every flag a rule leaves open is free. -/

namespace Sys2Proof.Machine

/-- NOT (R200): all four flags open. -/
def execNot (rA : Reg) (s : State) : Host.Outcome State Fault Refusal :=
  .next (s.drawn.putResult rA (~~~(s.reg rA), s.anyFlags))

/-- NEG (R201): all four flags open. -/
def execNeg (rA : Reg) (s : State) : Host.Outcome State Fault Refusal :=
  .next (s.drawn.putResult rA (0 - s.reg rA, s.anyFlags))

/-- A ZOP that clears C and sets Z from its result (R202, R203, R206). -/
def State.extend (s : State) (rA : Reg) (r : Word) : State := s.drawn.putResult rA (r, extendFlags r s.anyFlags)

/-- ZXT (R202). -/
def execZxt (rA : Reg) (s : State) : Host.Outcome State Fault Refusal := .next (s.extend rA (zeroExtendLow (s.reg rA)))

/-- SXT (R203). -/
def execSxt (rA : Reg) (s : State) : Host.Outcome State Fault Refusal := .next (s.extend rA (signExtendLow (s.reg rA)))

/-- A right shift by one place: the lost bit goes to C (R204, R205). -/
def State.shiftOne (s : State) (rA : Reg) (r : Word) : State :=
  s.drawn.putResult rA (r, shiftFlags ((s.reg rA).getLsbD 0) s.anyFlags)

/-- SRA (R204). -/
def execSra (rA : Reg) (s : State) : Host.Outcome State Fault Refusal :=
  .next (s.shiftOne rA (shiftRightArith (s.reg rA)))

/-- SRL (R205). -/
def execSrl (rA : Reg) (s : State) : Host.Outcome State Fault Refusal :=
  .next (s.shiftOne rA (shiftRightLogical (s.reg rA)))

/-- DUB (R206). -/
def execDub (rA : Reg) (s : State) : Host.Outcome State Fault Refusal := .next (s.extend rA (duplicateUpper (s.reg rA)))

end Sys2Proof.Machine
end

