-- ==== Sys2Proof/Machine/Special.lean ====
section
/-! DEFINITION. Special-register space (spec/10_state.md R18..R36, spec/60_exceptions.md R292..R295): the address check,
the map, and every register's read and write. -/

namespace Sys2Proof.Machine

/-- A row of the map R18, with the number inside the row. -/
inductive Spr where
  | link
  | flags
  /-- Addresses 2..5 (R24). -/
  | undefined
  | cycleLow
  | cycleHigh
  | irr
  | icr
  | idr
  | isr
  /-- Addresses 12..14 and 24..31 (R30). -/
  | reserved
  | context
  /-- Addresses 16..23 (R32). -/
  | userReg (i : Fin 8)
  /-- Addresses 32..47 (R33). -/
  | userCode (i : Fin 16)
  /-- Addresses 48..63 (R33). -/
  | userData (i : Fin 16)
  /-- Addresses 64..79 (R34). -/
  | kernCode (i : Fin 16)
  /-- Addresses 80..95 (R34). -/
  | kernData (i : Fin 16)
  /-- Addresses 96..127 (R35). -/
  | io (a : BitVec 7)
  deriving DecidableEq, Repr, Inhabited

/-- The addresses 0..15, one by one (R18). -/
def sprLow : Nat → Spr
  | 0 => .link
  | 1 => .flags
  | 6 => .cycleLow
  | 7 => .cycleHigh
  | 8 => .irr
  | 9 => .icr
  | 10 => .idr
  | 11 => .isr
  | 12 => .reserved
  | 13 => .reserved
  | 14 => .reserved
  | 15 => .context
  | _ => .undefined

/-- The map of special-register space (R18). -/
def sprAt (a : BitVec 7) : Spr :=
  if a.toNat < 16 then sprLow a.toNat
  else if a.toNat < 24 then .userReg (Fin.ofNat 8 (a.toNat - 16))
  else if a.toNat < 32 then .reserved
  else if a.toNat < 48 then .userCode (Fin.ofNat 16 (a.toNat - 32))
  else if a.toNat < 64 then .userData (Fin.ofNat 16 (a.toNat - 48))
  else if a.toNat < 80 then .kernCode (Fin.ofNat 16 (a.toNat - 64))
  else if a.toNat < 96 then .kernData (Fin.ofNat 16 (a.toNat - 80))
  else .io a

/-- A kernel-mode address above 127: SPR_ADDR_HIGH (R20, D13). -/
def highAddress (h : SprAddrHigh) (a : Word) : Except TrapKind (BitVec 7) :=
  match h with
  | .mask7 => .ok (a.setWidth 7)
  | .illegal => .error .illegalInstruction

/-- `SprCheck(a)` (R20): the register an address reaches, or the trap, before any other effect. -/
def State.sprCheck (s : State) (a : Word) : Except TrapKind Spr :=
  match s.mode with
  | .user => if a.toNat ≤ 7 then .ok (sprAt (a.setWidth 7)) else .error .illegalInstruction
  | .kernel =>
    if a.toNat ≤ 127 then .ok (sprAt (a.setWidth 7)) else (highAddress s.cfg.sprAddrHigh a).map sprAt

/-- What is done with the bank that CONTEXT names (R31..R33); refused where it names none (U19). -/
def State.withContext {α : Type} (s : State) (f : Nat → Res α) : Res α :=
  if s.context.toNat < s.cfg.nctx then f s.context.toNat else .refuse .contextOutOfRange

/-- A read that is undefined: `any16()`, nothing changed (R24, R30, D29). -/
def State.readAny (s : State) : Res Word := .ok s.anyWord s.drawn

/-- The UART's receive register (R292): the next byte of the input in bits 7:0 and open bits above, the byte consumed;
with no byte there, a free value and nothing consumed (U12). -/
def State.uartReceive (s : State) : Res Word :=
  match s.uartIn with
  | [] => s.readAny
  | b :: rest => .ok (highByte s.anyWord ++ b) { s.drawn with uartIn := rest }

/-- A read in I/O space (R292..R295): the receive register, and everywhere else IO_OTHER, `any16()`. -/
def State.ioRead (s : State) (a : BitVec 7) : Res Word :=
  if a = s.cfg.uartRx then s.uartReceive
  else
    match s.cfg.ioOther with
    | .readsAnyWritesIgnored => s.readAny

/-- A write in I/O space (R292..R295): the transmit register appends bits 7:0 to the output, and every other write is
IO_OTHER, ignored. -/
def State.ioWrite (s : State) (a : BitVec 7) (v : Word) : State :=
  if a = s.cfg.uartTx then { s with uartOut := s.uartOut ++ [lowByte v] }
  else
    match s.cfg.ioOther with
    | .readsAnyWritesIgnored => s

/-- Special register 1 as the mode sees it (R23). -/
def State.flagsWord (s : State) : Word :=
  match s.mode with
  | .user => userFlagsWord s.flags s.anyWord
  | .kernel => kernelFlagsWord s.flags s.trap s.ie s.anyWord

/-- A write of special register 1 (R23): the current bank's flags, and in kernel mode t. -/
def State.writeFlagsWord (s : State) (v : Word) : State :=
  match s.mode with
  | .user => s.setFlags (flagsOfWord v)
  | .kernel => { s.setFlags (flagsOfWord v) with trap := v.getLsbD 8 }

/-- `SprRead` (R20, R22..R35). -/
def State.sprRead (s : State) (r : Spr) : Res Word :=
  match r with
  | .link => .ok s.link s
  | .flags => .ok s.flagsWord s.drawn
  | .undefined => s.readAny
  | .cycleLow => .ok (s.cycles.extractLsb' 0 16) s
  | .cycleHigh => .ok (s.cycles.extractLsb' 16 16) s
  | .irr => .ok s.irr s
  | .icr => .ok s.icr s
  | .idr => .ok s.idr s
  | .isr => .ok s.isr s
  | .reserved => s.readAny
  | .context => .ok s.context s
  | .userReg i => s.withContext fun c => .ok ((s.bankAt c).reg i) s
  | .userCode i => s.withContext fun c => .ok ((s.bankAt c).cmmu.get i) s
  | .userData i => s.withContext fun c => .ok ((s.bankAt c).dmmu.get i) s
  | .kernCode i => .ok ((s.bankAt 0).cmmu.get i) s
  | .kernData i => .ok ((s.bankAt 0).dmmu.get i) s
  | .io a => s.ioRead a

/-- Code MMU register `i` of context `c` written (R33, R34). -/
def State.setCodeMmu (s : State) (c : Nat) (i : Fin 16) (v : Word) : State :=
  s.setBankAt c { s.bankAt c with cmmu := (s.bankAt c).cmmu.set i.val v }

/-- Data MMU register `i` of context `c` written (R33, R34). -/
def State.setDataMmu (s : State) (c : Nat) (i : Fin 16) (v : Word) : State :=
  s.setBankAt c { s.bankAt c with dmmu := (s.bankAt c).dmmu.set i.val v }

/-- `SprWrite` (R20, R22..R35); a write that is ignored changes nothing and raises nothing. -/
def State.sprWrite (s : State) (r : Spr) (v : Word) : Res Unit :=
  match r with
  | .link => .ok () (s.setLink v)
  | .flags => .ok () (s.writeFlagsWord v)
  | .undefined => .ok () s
  | .cycleLow => .ok () s
  | .cycleHigh => .ok () s
  | .irr => .ok () { s with irr := v }
  | .icr => .ok () s
  | .idr => .ok () s
  | .isr => .ok () { s with isr := v }
  | .reserved => .ok () s
  | .context => .ok () { s with context := v }
  | .userReg i => s.withContext fun c => .ok () (s.setBankAt c ((s.bankAt c).setReg i v))
  | .userCode i => s.withContext fun c => .ok () (s.setCodeMmu c i v)
  | .userData i => s.withContext fun c => .ok () (s.setDataMmu c i v)
  | .kernCode i => .ok () (s.setCodeMmu 0 i v)
  | .kernData i => .ok () (s.setDataMmu 0 i v)
  | .io a => .ok () (s.ioWrite a v)

/-- The special-register read that a faulting SSI may have made and thrown away (R67, R183, D35): its side effect, or
nothing, by a free choice. -/
def State.maybeDiscardedRead (s : State) (r : Spr) : State :=
  if s.anyBit then
    match s.drawn.sprRead r with
    | .ok _ s' => s'
    | .raise _ _ => s.drawn
    | .refuse _ => s.drawn
  else s.drawn

end Sys2Proof.Machine
end

