-- ==== Sys2Proof/Machine/Yop.lean ====
section
/-! DEFINITION. The YOPs (spec/44_yop_special.md R180..R187): the address check of the special register comes first, then
the translation of the memory address, then the accesses; register field 0 is zero and the black hole (D12). -/

namespace Sys2Proof.Machine

/-- LSP (R180): with rA = 0 the read is still made. -/
def execLsp (rA rB : Reg) (s : State) : Host.Outcome State Fault Refusal :=
  (s.checked (s.sprCheck (s.reg rB)) fun r => (s.sprRead r).intoReg rA).run

/-- LSI (R181): a write that is ignored still makes the memory read. -/
def execLsi (rA rB : Reg) (s : State) : Host.Outcome State Fault Refusal :=
  (s.checked (s.sprCheck (s.reg rA)) fun r =>
    (s.readWord (s.reg rB) .dataRead).bind fun v s1 => (s1.sprWrite r v).thenAdvance).run

/-- SSP (R182). -/
def execSsp (rA rB : Reg) (s : State) : Host.Outcome State Fault Refusal :=
  (s.checked (s.sprCheck (s.reg rB)) fun r => (s.sprWrite r (s.reg rA)).thenAdvance).run

/-- SSI's store once its special register `r` is known to be accessible (R183): when the store faults, the register may
have been read and the value thrown away (R67). -/
def State.storeSpecial (s : State) (r : Spr) (ea : Word) : Res Unit :=
  match s.wordPair ea .dataWrite with
  | .error k => .raise k (s.maybeDiscardedRead r)
  | .ok p => (s.sprRead r).bind fun v s1 => .ok () (s1.writePair p v)

/-- SSI (R183). -/
def execSsi (rA rB : Reg) (s : State) : Host.Outcome State Fault Refusal :=
  (s.checked (s.sprCheck (s.reg rA)) fun r => (s.storeSpecial r (s.reg rB)).thenAdvance).run

/-- LCW (R184): a word of the code space of the current mode. -/
def execLcw (rA rB : Reg) (s : State) : Host.Outcome State Fault Refusal :=
  ((s.readWord (s.reg rB) .codeRead).intoReg rA).run

/-- SYS (R185): the n of the rA field selects the vector; a nonzero rB field is an illegal instruction. -/
def execSys (n rB : Reg) (s : State) : Host.Outcome State Fault Refusal :=
  if rB = 0 then .next (s.enter (.sys n)) else .next (s.enter .illegalInstruction)

/-- Y06 (R186): reserved, an illegal instruction whatever its fields. -/
def execY06 (_rA _rB : Reg) (s : State) : Host.Outcome State Fault Refusal := .next (s.enter .illegalInstruction)

end Sys2Proof.Machine
end

