-- ==== Sys2Proof/Machine/Dispatch.lean ====
section
/-! DEFINITION. The dispatch from an instruction to its meaning: one arm per constructor, in the order of
spec/opcode_table.json. -/

namespace Sys2Proof.Machine

def exec (i : Instr) (s : State) : Host.Outcome State Fault Refusal :=
  match i with
  | .illegal0 => Sys2Proof.Machine.execIllegal0 s
  | .ldw rA rB imm7 => Sys2Proof.Machine.execLdw rA rB imm7 s
  | .ldb rA rB imm7 => Sys2Proof.Machine.execLdb rA rB imm7 s
  | .stw rA rB imm7 => Sys2Proof.Machine.execStw rA rB imm7 s
  | .stb rA rB imm7 => Sys2Proof.Machine.execStb rA rB imm7 s
  | .adi rA rB imm7 => Sys2Proof.Machine.execAdi rA rB imm7 s
  | .lui rA imm10 => Sys2Proof.Machine.execLui rA imm10 s
  | .brAlways imm10 => Sys2Proof.Machine.execBrAlways imm10 s
  | .brLink imm10 => Sys2Proof.Machine.execBrLink imm10 s
  | .brEq imm10 => Sys2Proof.Machine.execBrEq imm10 s
  | .brNe imm10 => Sys2Proof.Machine.execBrNe imm10 s
  | .brUge imm10 => Sys2Proof.Machine.execBrUge imm10 s
  | .brUlt imm10 => Sys2Proof.Machine.execBrUlt imm10 s
  | .brSge imm10 => Sys2Proof.Machine.execBrSge imm10 s
  | .brSlt imm10 => Sys2Proof.Machine.execBrSlt imm10 s
  | .jal rA rB imm6 => Sys2Proof.Machine.execJal rA rB imm6 s
  | .sbb rA rB rC => Sys2Proof.Machine.execSbb rA rB rC s
  | .adc rA rB rC => Sys2Proof.Machine.execAdc rA rB rC s
  | .sub rA rB rC => Sys2Proof.Machine.execSub rA rB rC s
  | .add rA rB rC => Sys2Proof.Machine.execAdd rA rB rC s
  | .xor rA rB rC => Sys2Proof.Machine.execXor rA rB rC s
  | .or rA rB rC => Sys2Proof.Machine.execOr rA rB rC s
  | .and rA rB rC => Sys2Proof.Machine.execAnd rA rB rC s
  | .lsp rA rB => Sys2Proof.Machine.execLsp rA rB s
  | .lsi rA rB => Sys2Proof.Machine.execLsi rA rB s
  | .ssp rA rB => Sys2Proof.Machine.execSsp rA rB s
  | .ssi rA rB => Sys2Proof.Machine.execSsi rA rB s
  | .lcw rA rB => Sys2Proof.Machine.execLcw rA rB s
  | .sys n rB => Sys2Proof.Machine.execSys n rB s
  | .y06 rA rB => Sys2Proof.Machine.execY06 rA rB s
  | .not rA => Sys2Proof.Machine.execNot rA s
  | .neg rA => Sys2Proof.Machine.execNeg rA s
  | .zxt rA => Sys2Proof.Machine.execZxt rA s
  | .sxt rA => Sys2Proof.Machine.execSxt rA s
  | .sra rA => Sys2Proof.Machine.execSra rA s
  | .srl rA => Sys2Proof.Machine.execSrl rA s
  | .dub rA => Sys2Proof.Machine.execDub rA s
  | .ccf => Sys2Proof.Machine.execCcf s
  | .scf => Sys2Proof.Machine.execScf s
  | .di => Sys2Proof.Machine.execDi s
  | .ei => Sys2Proof.Machine.execEi s
  | .hlt => Sys2Proof.Machine.execHlt s
  | .brk => Sys2Proof.Machine.execBrk s
  | .rti => Sys2Proof.Machine.execRti s
  | .die => Sys2Proof.Machine.execDie s

end Sys2Proof.Machine
end

