-- ==== Sys2Proof/Machine/Cycle.lean ====
section
/-! DEFINITION. What a step does around an instruction (spec/60_exceptions.md R262, R264, R268, R269): the boundary at
which the interrupt request is seen, the fetch, and the trace trap; and a halted machine (R226, R299). -/

namespace Sys2Proof.Machine

/-- IRQ at this boundary (R264). -/
def State.irqLine (s : State) : Bool := s.irqInput.headD false

/-- The state at an instruction boundary, IRQ seen and the free-running counter moved on by a count the spec does not
give (R25, R264, R290). -/
def State.boundary (s : State) : State :=
  { s with irqInput := s.irqInput.tail, cycles := s.cycles + Config.freeCycles s.draws, draws := s.draws + 1 }

/-- Whether the boundary makes the interrupt entry (R262, R264). -/
def State.interrupted (s : State) : Bool := s.ie && s.irqLine

/-- `armed` (R262, R268): the instruction begins in user mode with t = 1. -/
def State.armed (s : State) : Bool := decide (s.mode = .user) && s.trap

/-- What follows an instruction that began in state `s` (R262, R268): where it was armed, the timing is `after` and it
completed, the trace trap at the new pc. DEDUCED (notes/assumptions/11.md): a user-mode instruction completed exactly
when user mode goes on, since user mode is left only by a trap (R278). -/
def afterInstruction (s : State) (o : Host.Outcome State Fault Refusal) : Host.Outcome State Fault Refusal :=
  match o with
  | .next s' =>
    if s.armed && decide (s.cfg.traceTiming = .after) && decide (s'.mode = .user) && !s'.halted then
      .next (s'.enter .trace)
    else .next s'
  | .fault r => .fault r
  | .refused r => .refused r

/-- The instruction at the pc: fetched, decoded and run, or the trap of its fetch (R262). -/
def fetchAndRun (s : State) : Host.Outcome State Fault Refusal :=
  match s.fetch with
  | .ok w s1 => afterInstruction s (exec (decodeWord w) s1)
  | .raise k s1 => .next (s1.enter k)
  | .refuse r => .refused r

/-- A step from a boundary that takes no interrupt (R262); user mode with CONTEXT 0 or out of range is refused (R12).
DESIGN CHOICE (notes/assumptions/11.md, 36.md): where T_TRAP_TIMING is `before`, the trace trap comes before the fetch, so
before its checks of an odd pc and of the page; R268 says only "in place of executing the instruction", and D22 and R269
order the events for `after`. -/
def instructionStep (s : State) : Host.Outcome State Fault Refusal :=
  if s.bankOk then
    if s.armed && decide (s.cfg.traceTiming = .before) then .next (s.enter .trace) else fetchAndRun s
  else .refused .userContext

/-- A step of a halted machine (R226, R299, D26): none, or where HLT_WAKE is `interrupt` and ie = 1 a wait that an
interrupt request ends with the interrupt entry. -/
def haltedStep (s : State) : Host.Outcome State Fault Refusal :=
  match s.cfg.hltWake with
  | .never => .fault .halted
  | .interrupt =>
    if s.ie then
      if s.irqLine then .next (({ s.boundary with halted := false } : State).enter .interrupt) else .next s.boundary
    else .fault .halted

/-- One step (R262). -/
def stepOnce (s : State) : Host.Outcome State Fault Refusal :=
  if s.halted then haltedStep s
  else if s.interrupted then .next (s.boundary.enter .interrupt)
  else instructionStep s.boundary

/-- The two physical addresses from which an even pc is fetched, whatever their permission. -/
def State.fetchAddresses (s : State) : PhysAddr × PhysAddr :=
  let pa : PhysAddr := frameOf s.cfg.mmuLayout (s.mmuEntry s.pc .fetch) ++ pageOffset s.pc
  (pa, pa + 1)

/-- An instruction word stored where the next instruction is fetched, little endian (R63, R324). -/
def State.storeAtPc (s : State) (w : Word) : State :=
  (s.setByteAt s.fetchAddresses.1 (lowByte w)).setByteAt s.fetchAddresses.2 (highByte w)

end Sys2Proof.Machine
end

