-- ==== Sys2Proof/Machine/Aliases.lean ====
section
/-! DEFINITION. The assembler's alias instructions as the instructions they expand to (spec/47_assembler_aliases.md
R240..R248, with the corrections of spec/90_conflicts.md C3, C4, C10). They add nothing to the machine. -/

namespace Sys2Proof.Machine

/-- The low six bits of a constant, as ADI's 7-bit immediate. -/
def low6 (k : Word) : BitVec 7 := (k.extractLsb' 0 6).setWidth 7

/-- The high ten bits of a constant, as LUI's immediate. -/
def high10 (k : Word) : BitVec 10 := k.extractLsb' 6 10

/-- `LDI rT, imm16` (also written LI): the three cases of R240, tried in order. -/
def aliasLdi (rT : Reg) (k : Word) : List Instr :=
  if k.toNat < 0x40 then [.adi rT 0 (low6 k)]
  else if k &&& 0xFFC0 = k then [.lui rT (high10 k)]
  else [.lui rT (high10 k), .adi rT rT (low6 k)]

/-- `JAL rT` (R241); `RTN rN` is the same word (R247), with LINK when no register is given. -/
def aliasJalReg (rT : Reg) : List Instr := [.jal rT rT 0]

/-- `RTN` (R247). -/
def aliasRtn : List Instr := aliasJalReg 0

/-- `JAL rT, rS, label` (R244, C4): rS builds the address, rT receives the return address. -/
def aliasJalFar (rT rS : Reg) (label : Word) : List Instr := [.lui rS (high10 label), .jal rT rS (label.extractLsb' 0 6)]

/-- `JAL rT, label` (R243). -/
def aliasJalLabel (rT : Reg) (label : Word) : List Instr := aliasJalFar rT rT label

/-- `JAL label` (R242): through LINK. -/
def aliasCall (label : Word) : List Instr := aliasJalLabel 0 label

/-- `SRR rA, rB, imm7` (R245). -/
def aliasSrr (rA rB : Reg) (a : BitVec 7) : List Instr := aliasLdi rB (a.setWidth 16) ++ [.lsp rA rB]

/-- `SRW rA, rB, imm7` (R245). -/
def aliasSrw (rA rB : Reg) (a : BitVec 7) : List Instr := aliasLdi rB (a.setWidth 16) ++ [.ssp rA rB]

/-- `SLA rN` (R246). -/
def aliasSla (rN : Reg) : List Instr := [.adc rN rN rN]

/-- `SLL rN` (R246). -/
def aliasSll (rN : Reg) : List Instr := [.add rN rN rN]

/-- `CMP rM, rN` (R248). -/
def aliasCmp (rM rN : Reg) : List Instr := [.sub 0 rM rN]

end Sys2Proof.Machine
end

