-- ==== Sys2Proof/Safety.lean ====
section
/-! DEFINITION. The terms in which statements about the machine are made: what two states have in common (frames), the
state a trap entry leaves, the invariant of a run, and what power-on reset fixes. -/

namespace Sys2Proof.Machine

/-! ### What two states have in common -/

/-- Mode, enables and every singleton special register are the same (R278), and so are the counter, the UART's
streams, the references to devices, the interrupt input and the parameters. -/
structure State.SameSingletons (s t : State) : Prop where
  mode     : t.mode = s.mode
  ie       : t.ie = s.ie
  trap     : t.trap = s.trap
  halted   : t.halted = s.halted
  context  : t.context = s.context
  irr      : t.irr = s.irr
  icr      : t.icr = s.icr
  idr      : t.idr = s.idr
  isr      : t.isr = s.isr
  cycles   : t.cycles = s.cycles
  uartIn   : t.uartIn = s.uartIn
  uartOut  : t.uartOut = s.uartOut
  devices  : t.deviceRefs = s.deviceRefs
  irqInput : t.irqInput = s.irqInput
  cfg      : t.cfg = s.cfg

/-- Every context but `c` is the same: general registers, LINK, flags and MMU registers. -/
def State.SameBanksBut (s t : State) (c : Nat) : Prop := ∀ d, d ≠ c → t.bankAt d = s.bankAt d

/-- Every context is the same. -/
def State.SameBanks (s t : State) : Prop := ∀ d, t.bankAt d = s.bankAt d

/-- Every byte of physical storage is the same. -/
def State.SameMemory (s t : State) : Prop := ∀ pa : PhysAddr, t.byteAt pa = s.byteAt pa

/-- Every byte of physical storage outside the addresses `p` holds of is the same. -/
def State.SameMemoryBut (s t : State) (p : PhysAddr → Prop) : Prop := ∀ pa : PhysAddr, ¬ p pa → t.byteAt pa = s.byteAt pa

/-- The current bank's MMU registers are the same. -/
def State.SameMmu (s t : State) : Prop := t.bank.cmmu = s.bank.cmmu ∧ t.bank.dmmu = s.bank.dmmu

/-- Every general register of the current bank but `r` is the same. -/
def State.SameRegsBut (s t : State) (r : Reg) : Prop := ∀ q, q ≠ r → t.reg q = s.reg q

/-- What an instruction that only works on the current bank's general register `rA` (destination 0 discarding the
result) and on its flags leaves alone: everything else. -/
structure State.OnlyRegAndFlags (s t : State) (rA : Reg) : Prop where
  singletons : s.SameSingletons t
  otherBanks : s.SameBanksBut t s.bankNo
  memory     : s.SameMemory t
  mmu        : s.SameMmu t
  regs       : s.SameRegsBut t rA
  link       : t.link = s.link

/-- The same with destination field 0 meaning LINK (R14). -/
structure State.OnlyRegOrLinkAndFlags (s t : State) (rA : Reg) : Prop where
  singletons : s.SameSingletons t
  otherBanks : s.SameBanksBut t s.bankNo
  memory     : s.SameMemory t
  mmu        : s.SameMmu t
  regs       : s.SameRegsBut t rA
  link       : rA ≠ 0 → t.link = s.link

/-- A store's frame: nothing but the two bytes at `lo` and `hi`. -/
structure State.OnlyMemory (s t : State) (p : PhysAddr → Prop) : Prop where
  singletons : s.SameSingletons t
  banks      : s.SameBanks t
  memory     : s.SameMemoryBut t p

/-- Nothing but the pc (and the model's count of draws) differs. -/
structure State.OnlyPc (s t : State) : Prop where
  singletons : s.SameSingletons t
  banks      : s.SameBanks t
  memory     : s.SameMemory t

/-- Every piece of state outside context `c` is the same: the special registers, the other contexts, memory. -/
structure State.OnlyBank (s t : State) (c : Nat) : Prop where
  singletons : s.SameSingletons t
  otherBanks : s.SameBanksBut t c
  memory     : s.SameMemory t

/-- `t` is `s` after an instruction that writes `v` to general register `rA` (field 0 discards it, R13) and may write
the four flags: the next instruction follows, nothing else changes. -/
structure State.Computed (s t : State) (rA : Reg) (v : Word) : Prop where
  pc    : t.pc = s.pc + 2
  value : rA ≠ 0 → t.reg rA = v
  frame : s.OnlyRegAndFlags t rA

/-- `t` is `s` after an instruction that writes `v` to general register `rA` (field 0 discards it) and no flag. -/
structure State.Loaded (s t : State) (rA : Reg) (v : Word) : Prop where
  computed : s.Computed t rA v
  flags    : t.flags = s.flags

/-- The same for an instruction whose destination field 0 means LINK (R14), flags aside. -/
structure State.ComputedOrLink (s t : State) (rA : Reg) (v : Word) : Prop where
  value : t.regOrLink rA = v
  frame : s.OnlyRegOrLinkAndFlags t rA

/-! ### Traps -/

/-- The state `t` is what a vectored entry of kind `k` from state `s` leaves (R261, R270): IRR the address of the
instruction after a SYS and the pc for every other kind, ISR the code of the mode before, ICR the cause's, IDR the fault
address of a page fault or a misaligned access, mode, ie and pc as entered, and nothing else changed. -/
structure State.Entered (s t : State) (k : TrapKind) : Prop where
  irr      : t.irr = match k with
    | .sys _ => s.pc + 2
    | _ => s.pc
  isr      : t.isr = match s.mode with
    | .user => s.cfg.isrLayout.user
    | .kernel => s.cfg.isrLayout.kernel
  icr      : t.icr = icrEncode k s.mode
  idr      : ∀ va acc, k = .pageFault va acc ∨ k = .misaligned va acc → t.idr = va
  mode     : t.mode = .kernel
  ie       : t.ie = false
  pc       : t.pc = BitVec.ofNat 16 (4 * k.vector s.cfg.vectors)
  banks    : s.SameBanks t
  memory   : s.SameMemory t
  trap     : t.trap = s.trap
  halted   : t.halted = s.halted
  context  : t.context = s.context
  cycles   : t.cycles = s.cycles
  uartIn   : t.uartIn = s.uartIn
  uartOut  : t.uartOut = s.uartOut
  devices  : t.deviceRefs = s.deviceRefs
  irqInput : t.irqInput = s.irqInput
  cfg      : t.cfg = s.cfg

/-- A trap of kind `k` raised in state `s` can be entered: it is no double fault (R272). -/
def State.CanEnter (s : State) : Prop := s.mode = .user ∨ s.ie = true

/-! ### Translation in plain words -/

/-- The byte access of kind `acc` at `va` is allowed and reaches the physical address `pa` (R71). -/
def State.Reaches (s : State) (va : Word) (acc : Access) (pa : PhysAddr) : Prop := s.translate va acc = .ok pa

/-- A physical address behaves as RAM. -/
def State.IsRam (s : State) (pa : PhysAddr) : Prop := s.kindAt pa = .ram

/-- A physical address holds storage: RAM or ROM. -/
def State.IsStorage (s : State) (pa : PhysAddr) : Prop := s.kindAt pa = .ram ∨ s.kindAt pa = .rom

/-- The word stored at a physical address, little endian (R63). -/
def State.wordAt (s : State) (pa : PhysAddr) : Word := s.byteAt (pa + 1) ++ s.byteAt pa

/-- A word access of kind `acc` at an even address reaches storage at `pa` and `pa + 1`. -/
structure State.WordReaches (s : State) (va : Word) (acc : Access) (pa : PhysAddr) : Prop where
  even  : va.getLsbD 0 = false
  reach : s.Reaches va acc pa
  low   : s.IsStorage pa
  high  : s.IsStorage (pa + 1)

/-- A word store at an even address reaches RAM at `pa` and `pa + 1`. -/
structure State.WordStores (s : State) (va : Word) (pa : PhysAddr) : Prop where
  even  : va.getLsbD 0 = false
  reach : s.Reaches va .dataWrite pa
  low   : s.IsRam pa
  high  : s.IsRam (pa + 1)

/-- The page of `va` is invalid for every access: PP = 11 (R72). -/
def State.InvalidPage (s : State) (va : Word) (acc : Access) : Prop :=
  permissionOf s.cfg.mmuLayout (s.mmuEntry va acc) = 0b11

/-- The data page of `va` is read-only: PP = 01 (R72). -/
def State.ReadOnlyPage (s : State) (va : Word) : Prop :=
  permissionOf s.cfg.mmuLayout (s.mmuEntry va .dataWrite) = 0b01

/-- `t` is `s` after a store of the word `v` at the physical addresses `lo` and `hi`: the next instruction follows and no
other byte, register or flag changes. -/
structure State.StoredWord (s t : State) (lo hi : PhysAddr) (v : Word) : Prop where
  pc    : t.pc = s.pc + 2
  low   : t.byteAt lo = v.extractLsb' 0 8
  high  : t.byteAt hi = v.extractLsb' 8 8
  frame : s.OnlyMemory t (fun x => x = lo ∨ x = hi)

/-- The special register `a` holds `v` in the current mode: the registers of the map R18 whose read is no free value,
but FLAGS (R22, R25..R29, R31..R34). -/
inductive State.SpecialHolds (s : State) : Nat → Word → Prop
  | link : State.SpecialHolds s 0 s.link
  | cycleLow : State.SpecialHolds s 6 (s.cycles.extractLsb' 0 16)
  | cycleHigh : State.SpecialHolds s 7 (s.cycles.extractLsb' 16 16)
  | irr : s.mode = .kernel → State.SpecialHolds s 8 s.irr
  | icr : s.mode = .kernel → State.SpecialHolds s 9 s.icr
  | idr : s.mode = .kernel → State.SpecialHolds s 10 s.idr
  | isr : s.mode = .kernel → State.SpecialHolds s 11 s.isr
  | context : s.mode = .kernel → State.SpecialHolds s 15 s.context
  | userReg (i : Fin 8) : s.mode = .kernel → s.context.toNat < s.cfg.nctx →
      State.SpecialHolds s (16 + i.val) ((s.bankAt s.context.toNat).reg i)
  | userCode (i : Fin 16) : s.mode = .kernel → s.context.toNat < s.cfg.nctx →
      State.SpecialHolds s (32 + i.val) ((s.bankAt s.context.toNat).cmmu.get i)
  | userData (i : Fin 16) : s.mode = .kernel → s.context.toNat < s.cfg.nctx →
      State.SpecialHolds s (48 + i.val) ((s.bankAt s.context.toNat).dmmu.get i)
  | kernCode (i : Fin 16) : s.mode = .kernel → State.SpecialHolds s (64 + i.val) ((s.bankAt 0).cmmu.get i)
  | kernData (i : Fin 16) : s.mode = .kernel → State.SpecialHolds s (80 + i.val) ((s.bankAt 0).dmmu.get i)

/-- The special registers whose reads are undefined, whatever the mode may reach (R24, R30, R293..R295): 2..5, 12..14,
24..31, and I/O space but for the UART's receive register. -/
def State.SpecialUndefined (s : State) (a : Nat) : Prop :=
  2 ≤ a ∧ a ≤ 5 ∨
    s.mode = .kernel ∧ (12 ≤ a ∧ a ≤ 14 ∨ 24 ≤ a ∧ a ≤ 31 ∨ 96 ≤ a ∧ a ≤ 127 ∧ a ≠ s.cfg.uartRx.toNat)

/-- The special registers whose writes are ignored (R24, R25, R27, R28, R30, R293..R295): 2..7, 9, 10, 12..14, 24..31,
and I/O space but for the UART's transmit register. -/
def State.SpecialIgnored (s : State) (a : Nat) : Prop :=
  2 ≤ a ∧ a ≤ 7 ∨
    s.mode = .kernel ∧
      (a = 9 ∨ a = 10 ∨ 12 ≤ a ∧ a ≤ 14 ∨ 24 ≤ a ∧ a ≤ 31 ∨ 96 ≤ a ∧ a ≤ 127 ∧ a ≠ s.cfg.uartTx.toNat)

/-! ### Steps -/

/-- The coming step takes no interrupt and is made from a state with a meaning: it fetches. -/
structure State.Fetches (s : State) : Prop where
  running     : s.halted = false
  noInterrupt : s.interrupted = false
  bank        : s.bankOk = true
  notBefore   : s.armed = true → s.cfg.traceTiming = .after

/-! ### The invariant of a run, and reset -/

/-- What holds of every state a run meets: memory is in its canonical form, and user mode runs with interrupts enabled
(R264) in a context that exists and is not the kernel's (R12, R31). -/
structure State.Inv (s : State) : Prop where
  memory      : Memory.wf s.mem = true
  userEnabled : s.mode = .user → s.ie = true
  userContext : s.mode = .user → s.userContextOk = true

/-- What the spec fixes of the state after power-on reset (R320, R321, R322); everything else is open (R323). -/
structure State.PowerOn (s : State) : Prop where
  mode    : s.mode = .kernel
  pc      : s.pc = 0
  halted  : s.halted = false
  ie      : s.ie = false
  cycles  : s.cycles = 0
  code0   : (s.bankAt 0).cmmu.get 0 = 0
  data0   : (s.bankAt 0).dmmu.get 0 = 0
  uartOut : s.uartOut = []

/-- ICR tells two events apart, whatever the modes before them. R270 and D19 require it of events of different kinds. -/
def IcrTellsApart (k k' : TrapKind) : Prop := ∀ m m', icrEncode k m ≠ icrEncode k' m'

/-- ISR says user mode: the bits an RTI looks at are those of user (R29). -/
def State.IsrNamesUser (s : State) : Prop :=
  s.isr &&& s.cfg.isrLayout.mask = s.cfg.isrLayout.user &&& s.cfg.isrLayout.mask

end Sys2Proof.Machine
end

