-- ==== Sys2Proof/Certificates/Slice0/Obligations.lean ====
section
/-! DEFINITION. The statements about the model, in the order of OBLIGATIONS.json: encoding, the ALU, control transfer,
loads and stores, translation, special registers, traps, and the step. -/

open Sys2Proof Sys2Proof.Machine

/-! ### Encoding -/

/-- Decoding an encoded well-formed instruction gives it back, every field at every value. -/
def Obligations.DecodeInvertsEncode : Prop := ∀ i : Instr, i.wf = true → decodeWord (encode i) = i

/-- Every word has one decoding, a well-formed instruction, whose encoding is the word. -/
def Obligations.EncodeInvertsDecode : Prop := ∀ w : Word, (decodeWord w).wf = true ∧ encode (decodeWord w) = w

/-- R105: a word decodes to the instruction of a row exactly when its bits under the row's mask are the row's match,
the word 0x0000 being taken out of LDW. -/
def Obligations.OpcodeMap : Prop :=
  ∀ (w : Word) (j : Instr), (decodeWord w).row = j.row ↔ (w &&& j.row.1 = j.row.2 ∧ (w = 0 → j = .illegal0))

/-- Words written out from R101 and R102 decode as the spec's tables say; fetched bytes are taken low byte first
(D39, notes/assumptions/41.md). -/
def Obligations.WordsDecode : Prop :=
  decodeWord 0b000_1111110_010_001 = .ldw 1 2 0b1111110 ∧
  decodeWord 0b101_0001001000_001 = .lui 1 0x48 ∧
  decodeWord 0b110_1111111101_011 = .brNe 0b1111111101 ∧
  decodeWord 0b1110_100100_101_101 = .jal 5 5 0x24 ∧
  decodeWord 0b1111_010_010_001_000 = .sub 0 1 2 ∧
  decodeWord 0b1111111_011_010_001 = .ssi 1 2 ∧
  decodeWord 0b1111111_101_000_011 = .sys 3 0 ∧
  decodeWord 0b1111111111_110_001 = .dub 1 ∧
  decodeWord 0b1111111111111_110 = .rti ∧
  decodeWord 0 = .illegal0 ∧
  decode [0x0D, 0xA0, 0x55] = .ok (.lui 5 1, [0x55])

/-! ### Arithmetic and logic -/

/-- ADD, ADC, SUB, SBB in arithmetic: result, carry (no borrow), zero, sign and signed overflow, and the frame. The
flag definitions are the spec's own choice (D8, notes/assumptions/21.md), and that ADD and ADC add is its presumption (D37,
GK1, notes/assumptions/23.md). -/
def Obligations.AddSubResults : Prop :=
  ∀ (rA rB rC : Reg) (s : State), s.bankOk = true →
    let a := s.reg rB
    let b := s.reg rC
    let cin : Nat := if s.flags.c then 1 else 0
    let sets (i : Instr) (r : Word) (carry : Prop) (exact : Int) : Prop :=
      ∃ t, exec i s = .next t ∧ s.Computed t rA r ∧ (t.flags.c = true ↔ carry) ∧ (t.flags.z = true ↔ r = 0) ∧
        (t.flags.n = true ↔ r.toInt < 0) ∧ (t.flags.v = true ↔ ¬(-32768 ≤ exact ∧ exact < 32768))
    sets (.add rA rB rC) (a + b) (65536 ≤ a.toNat + b.toNat) (a.toInt + b.toInt) ∧
    sets (.adc rA rB rC) (a + b + BitVec.ofNat 16 cin) (65536 ≤ a.toNat + b.toNat + cin) (a.toInt + b.toInt + cin) ∧
    sets (.sub rA rB rC) (a - b) (b.toNat ≤ a.toNat) (a.toInt - b.toInt) ∧
    sets (.sbb rA rB rC) (a - b - BitVec.ofNat 16 (1 - cin)) (b.toNat + (1 - cin) ≤ a.toNat)
      (a.toInt - b.toInt - (1 - cin))

/-- The sense of the branch names after `SUB r0, rM, rN` (R6): eq, neq, uge, ult, sge, slt order the operands
(subtraction's flags: D8, notes/assumptions/21.md). -/
def Obligations.CompareThenBranch : Prop :=
  ∀ (rM rN : Reg) (imm10 : BitVec 10) (s : State), s.bankOk = true →
    ∃ t, exec (.sub 0 rM rN) s = .next t ∧ (∀ r, t.reg r = s.reg r) ∧
      let goes (i : Instr) (p : Prop) : Prop :=
        (p → exec i t = .next { t with pc := t.branchTarget imm10 }) ∧ (¬p → exec i t = .next { t with pc := t.pc + 2 })
      goes (.brEq imm10) (s.reg rM = s.reg rN) ∧ goes (.brNe imm10) (s.reg rM ≠ s.reg rN) ∧
      goes (.brUge imm10) ((s.reg rN).toNat ≤ (s.reg rM).toNat) ∧ goes (.brUlt imm10) ((s.reg rM).toNat < (s.reg rN).toNat) ∧
      goes (.brSge imm10) ((s.reg rN).toInt ≤ (s.reg rM).toInt) ∧ goes (.brSlt imm10) ((s.reg rM).toInt < (s.reg rN).toInt)

/-- Thirty-two-bit arithmetic: ADD of the low words then ADC of the high words adds, SUB then SBB subtracts, with the
carry (no borrow) of the whole (R160, R161; the carry: D8, notes/assumptions/21.md; that ADD and ADC add: D37, GK1,
notes/assumptions/23.md). -/
def Obligations.DoubleWordArithmetic : Prop :=
  ∀ (dLo dHi aLo aHi bLo bHi : Reg) (s : State), s.bankOk = true → dLo ≠ 0 → dHi ≠ 0 → dLo ≠ dHi → aHi ≠ dLo → bHi ≠ dLo →
    let x : BitVec 32 := s.reg aHi ++ s.reg aLo
    let y : BitVec 32 := s.reg bHi ++ s.reg bLo
    (∃ t u, exec (.add dLo aLo bLo) s = .next t ∧ exec (.adc dHi aHi bHi) t = .next u ∧
      (u.reg dHi ++ u.reg dLo : BitVec 32) = x + y ∧ (u.flags.c = true ↔ 2 ^ 32 ≤ x.toNat + y.toNat)) ∧
    (∃ t u, exec (.sub dLo aLo bLo) s = .next t ∧ exec (.sbb dHi aHi bHi) t = .next u ∧
      (u.reg dHi ++ u.reg dLo : BitVec 32) = x - y ∧ (u.flags.c = true ↔ y.toNat ≤ x.toNat))

/-- XOR, OR, AND bit by bit, Z and N from the result (C and V are open: D9, notes/assumptions/21.md; that the three are
the bitwise operations: D37, GK1, notes/assumptions/23.md). -/
def Obligations.LogicResults : Prop :=
  ∀ (rA rB rC : Reg) (s : State), s.bankOk = true →
    let sets (i : Instr) (op : Bool → Bool → Bool) : Prop :=
      ∃ t r, exec i s = .next t ∧ s.Computed t rA r ∧ (∀ k, r.getLsbD k = op ((s.reg rB).getLsbD k) ((s.reg rC).getLsbD k)) ∧
        (t.flags.z = true ↔ r = 0) ∧ (t.flags.n = true ↔ r.toInt < 0)
    sets (.xor rA rB rC) (fun a b => a != b) ∧ sets (.or rA rB rC) (fun a b => a || b) ∧
    sets (.and rA rB rC) (fun a b => a && b)

/-- ZXT, SXT, DUB as numbers; C cleared, Z from the 16-bit result (N and V are open: D10, notes/assumptions/21.md). -/
def Obligations.ByteUnaryResults : Prop :=
  ∀ (rA : Reg) (s : State), s.bankOk = true →
    let low := (s.reg rA).toNat % 256
    let sets (i : Instr) (p : Word → Prop) : Prop :=
      ∃ t r, exec i s = .next t ∧ s.Computed t rA r ∧ p r ∧ t.flags.c = false ∧ (t.flags.z = true ↔ r = 0)
    sets (.zxt rA) (fun r => r.toNat = low) ∧
    sets (.sxt rA) (fun r => r.toInt = if low < 128 then (low : Int) else (low : Int) - 256) ∧
    sets (.dub rA) (fun r => r.toNat = (s.reg rA).toNat / 256 * 257)

/-- SRA halves the signed and SRL the unsigned value, rounding down; C is the bit lost (Z, N, V open; one place: D38,
notes/assumptions/22.md). -/
def Obligations.ShiftRightResults : Prop :=
  ∀ (rA : Reg) (s : State), s.bankOk = true →
    let sets (i : Instr) (p : Word → Prop) : Prop :=
      ∃ t r, exec i s = .next t ∧ s.Computed t rA r ∧ p r ∧ (t.flags.c = true ↔ (s.reg rA).toNat % 2 = 1)
    sets (.sra rA) (fun r => r.toInt = (s.reg rA).toInt / 2) ∧ sets (.srl rA) (fun r => r.toNat = (s.reg rA).toNat / 2)

/-- NOT gives the word with every bit changed, NEG the word that adds to zero (GK1, notes/assumptions/23.md; all flags
open, D10). -/
def Obligations.NotNegResults : Prop :=
  ∀ (rA : Reg) (s : State), s.bankOk = true →
    (∃ t r, exec (.not rA) s = .next t ∧ s.Computed t rA r ∧ r.toNat + (s.reg rA).toNat = 65535) ∧
    (∃ t r, exec (.neg rA) s = .next t ∧ s.Computed t rA r ∧ r + s.reg rA = 0)

/-- ADI: the sum with the signed immediate, into LINK when rA is 0; flags as of the addition (D4, D8: notes/assumptions/20.md,
21.md). -/
def Obligations.AdiResult : Prop :=
  ∀ (rA rB : Reg) (imm7 : BitVec 7) (s : State), s.bankOk = true →
    let k : Word := BitVec.ofInt 16 imm7.toInt
    ∃ t, exec (.adi rA rB imm7) s = .next t ∧ s.ComputedOrLink t rA (s.reg rB + k) ∧ t.pc = s.pc + 2 ∧
      (t.flags.c = true ↔ 65536 ≤ (s.reg rB).toNat + k.toNat) ∧ (t.flags.z = true ↔ s.reg rB + k = 0) ∧
      (t.flags.n = true ↔ (s.reg rB + k).toInt < 0) ∧
      (t.flags.v = true ↔ ¬(-32768 ≤ (s.reg rB).toInt + imm7.toInt ∧ (s.reg rB).toInt + imm7.toInt < 32768))

/-- R141, LUI: `xl[rA] <- imm10 << 6`, no flag, legal in both modes; its word is of format U. -/
def Obligations.LuiResult : Prop :=
  ∀ (rA : Reg) (imm10 : BitVec 10) (s : State), s.bankOk = true →
    (encode (.lui rA imm10)).toNat = 0xA000 + 8 * imm10.toNat + rA.val ∧
    ∃ t, exec (.lui rA imm10) s = .next t ∧ t.pc = s.pc + 2 ∧ t.flags = s.flags ∧
      ∃ v : Word, v.toNat = imm10.toNat * 64 ∧ s.ComputedOrLink t rA v

/-- R142: LUI then ADI leave the constant, and the flags C = 0, V = 0, Z and N of the constant (ADI's flags: D8,
notes/assumptions/21.md). -/
def Obligations.LoadConstantPair : Prop :=
  ∀ (rT : Reg) (k : Word) (s : State), s.bankOk = true → rT ≠ 0 →
    ∃ t u, exec (.lui rT (k.extractLsb' 6 10)) s = .next t ∧
      exec (.adi rT rT ((k.extractLsb' 0 6).setWidth 7)) t = .next u ∧
      u.reg rT = k ∧ u.pc = s.pc + 4 ∧ s.OnlyRegAndFlags u rT ∧
      u.flags.c = false ∧ u.flags.v = false ∧ (u.flags.z = true ↔ k = 0) ∧ (u.flags.n = true ↔ k.toInt < 0)

/-- R220, R221: CCF and SCF clear and set C of the current bank, Z, N, V and everything else unchanged, in both modes. -/
def Obligations.CarryFlagInstructions : Prop :=
  ∀ s : State, s.bankOk = true →
    let sets (i : Instr) (c : Bool) : Prop :=
      ∃ t, exec i s = .next t ∧ s.Computed t 0 0 ∧ t.flags = { s.flags with c := c }
    decodeWord 0xFFF8 = .ccf ∧ decodeWord 0xFFF9 = .scf ∧ sets .ccf false ∧ sets .scf true

/-! ### Control transfer -/

/-- BRx that writes no register: taken as the table of R150 says, to the next instruction displaced by the signed
immediate times BR_OFFSET_UNIT (D2, D4: notes/assumptions/10.md, 20.md); nothing but the pc changes. -/
def Obligations.ConditionalBranches : Prop :=
  ∀ (imm10 : BitVec 10) (s : State),
    let unit : Int := match s.cfg.branchUnit with
      | .instruction => 2
      | .byte => 1
    let goes (i : Instr) (taken : Prop) : Prop :=
      ∃ a : Word, exec i s = .next { s with pc := a } ∧
        (taken → a = BitVec.ofInt 16 (s.pc.toInt + 2 + unit * imm10.toInt)) ∧ (¬taken → a = s.pc + 2)
    goes (.brAlways imm10) True ∧ goes (.brEq imm10) (s.flags.z = true) ∧ goes (.brNe imm10) (s.flags.z = false) ∧
    goes (.brUge imm10) (s.flags.c = true) ∧ goes (.brUlt imm10) (s.flags.c = false) ∧
    goes (.brSge imm10) (s.flags.n = s.flags.v) ∧ goes (.brSlt imm10) (s.flags.n ≠ s.flags.v)

/-- BRx cond 1: LINK holds the next instruction's address (D11, notes/assumptions/24.md), the pc the target (D2, D4:
notes/assumptions/10.md, 20.md). -/
def Obligations.BranchToSubroutine : Prop :=
  ∀ (imm10 : BitVec 10) (s : State), s.bankOk = true →
    let unit : Int := match s.cfg.branchUnit with
      | .instruction => 2
      | .byte => 1
    ∃ t, exec (.brLink imm10) s = .next t ∧ t.pc = BitVec.ofInt 16 (s.pc.toInt + 2 + unit * imm10.toInt) ∧
      t.flags = s.flags ∧ s.ComputedOrLink t 0 (s.pc + 2)

/-- JAL: the return address in rA (or LINK), the base read before, the target as JAL_TARGET_MODE says (D3,
notes/assumptions/14.md). -/
def Obligations.JalResult : Prop :=
  ∀ (rA rB : Reg) (imm6 : BitVec 6) (s : State), s.bankOk = true →
    ∃ t, exec (.jal rA rB imm6) s = .next t ∧ t.flags = s.flags ∧ s.ComputedOrLink t rA (s.pc + 2) ∧
      (s.cfg.jalTarget = .append → t.pc.toNat = (s.regOrLink rB).toNat / 64 * 64 + imm6.toNat) ∧
      (s.cfg.jalTarget = .add → t.pc.toNat = ((s.regOrLink rB).toNat + imm6.toNat) % 65536)

/-- R153: `LUI rT, T[15:6]` then `JAL rX, rT, T[5:0]` reach T under both values of JAL_TARGET_MODE. -/
def Obligations.FarTransfer : Prop :=
  ∀ (rT rX : Reg) (target : Word) (s : State), s.bankOk = true →
    ∃ t u, exec (.lui rT (target.extractLsb' 6 10)) s = .next t ∧ (t.regOrLink rT).extractLsb' 0 6 = 0#6 ∧
      exec (.jal rX rT (target.extractLsb' 0 6)) t = .next u ∧ u.pc = target ∧ u.regOrLink rX = s.pc + 4

/-! ### Loads and stores -/

/-- LDW at an even address that reaches storage, LDB at any (the byte, its sign extended, as a number), LCW at an even
address of code space (R130, R131, R184; signed displacement: D4, notes/assumptions/20.md; the byte order of LCW's word:
D39, R63, notes/assumptions/41.md). -/
def Obligations.LoadResults : Prop :=
  ∀ (rA rB : Reg) (imm7 : BitVec 7) (s : State) (pa : PhysAddr), s.bankOk = true →
    let ea := s.reg rB + BitVec.ofInt 16 imm7.toInt
    (s.WordReaches ea .dataRead pa → ∃ t, exec (.ldw rA rB imm7) s = .next t ∧ s.Loaded t rA (s.wordAt pa)) ∧
    (s.Reaches ea .dataRead pa → s.IsStorage pa →
      ∃ t v, exec (.ldb rA rB imm7) s = .next t ∧ s.Loaded t rA v ∧ v.toInt = (s.byteAt pa).toInt) ∧
    (s.WordReaches (s.reg rB) .codeRead pa → ∃ t, exec (.lcw rA rB) s = .next t ∧ s.Loaded t rA (s.wordAt pa))

/-- STW at an even address that reaches RAM: the two bytes, little endian, and nothing else; STB at any: one byte, bits
7:0 of the source (R132, R133; signed displacement: D4, notes/assumptions/20.md). -/
def Obligations.StoreResults : Prop :=
  ∀ (rA rB : Reg) (imm7 : BitVec 7) (s : State) (pa : PhysAddr), Memory.wf s.mem = true →
    let ea := s.reg rB + BitVec.ofInt 16 imm7.toInt
    (s.WordStores ea pa → ∃ t, exec (.stw rA rB imm7) s = .next t ∧ s.StoredWord t pa (pa + 1) (s.reg rA)) ∧
    (s.Reaches ea .dataWrite pa → s.IsRam pa →
      ∃ t, exec (.stb rA rB imm7) s = .next t ∧ t.pc = s.pc + 2 ∧ s.OnlyMemory t (fun x => x = pa) ∧
        (t.byteAt pa).toNat = (s.reg rA).toNat % 256)

/-- R80 (c): a load that follows a store to the same address returns what was stored; so does LCW through a code page on
the same physical page (FETCH_COHERENCE immediate: D30, notes/assumptions/17.md; LCW's byte order: D39, R63,
notes/assumptions/41.md). -/
def Obligations.LoadAfterStore : Prop :=
  ∀ (rA rB rC rD : Reg) (imm7 : BitVec 7) (s : State) (pa : PhysAddr), s.bankOk = true → Memory.wf s.mem = true →
    s.WordStores (s.reg rB + BitVec.ofInt 16 imm7.toInt) pa →
    ∃ t, exec (.stw rA rB imm7) s = .next t ∧
      (s.Reaches (s.reg rB + BitVec.ofInt 16 imm7.toInt) .dataRead pa →
        ∃ u, exec (.ldw rC rB imm7) t = .next u ∧ t.Loaded u rC (s.reg rA)) ∧
      ((s.reg rD).getLsbD 0 = false → s.Reaches (s.reg rD) .codeRead pa →
        ∃ u, exec (.lcw rC rD) t = .next u ∧ t.Loaded u rC (s.reg rA))

/-- A load, an LSI whose special register may be reached, or an LCW from an invalid page raises the page fault at its
address, and does nothing else. -/
def Obligations.LoadPageFaults : Prop :=
  ∀ (rA rB : Reg) (imm7 : BitVec 7) (s : State),
    let ea := s.reg rB + BitVec.ofInt 16 imm7.toInt
    let fault (va : Word) (acc : Access) : Host.Outcome State Fault Refusal := .next (s.enter (.pageFault va acc))
    (s.InvalidPage ea .dataRead → exec (.ldb rA rB imm7) s = fault ea .dataRead) ∧
    (s.InvalidPage ea .dataRead → ea.getLsbD 0 = false → exec (.ldw rA rB imm7) s = fault ea .dataRead) ∧
    (s.InvalidPage (s.reg rB) .codeRead → (s.reg rB).getLsbD 0 = false →
      exec (.lcw rA rB) s = fault (s.reg rB) .codeRead) ∧
    (s.InvalidPage (s.reg rB) .dataRead → (s.reg rB).getLsbD 0 = false →
      ((s.reg rA).toNat ≤ 7 ∨ s.mode = .kernel ∧ (s.reg rA).toNat ≤ 127) →
      exec (.lsi rA rB) s = fault (s.reg rB) .dataRead)

/-- A store to an invalid or read-only data page raises the page fault and stores nothing; an SSI may first have read its
special register and thrown the value away (R67, R183; D35, notes/assumptions/37.md), which the UART's input alone can
show. -/
def Obligations.StorePageFaults : Prop :=
  ∀ (rA rB : Reg) (imm7 : BitVec 7) (s : State),
    let ea := s.reg rB + BitVec.ofInt 16 imm7.toInt
    let shut (va : Word) : Prop := s.InvalidPage va .dataWrite ∨ s.ReadOnlyPage va
    (shut ea → exec (.stb rA rB imm7) s = .next (s.enter (.pageFault ea .dataWrite))) ∧
    (shut ea → ea.getLsbD 0 = false → exec (.stw rA rB imm7) s = .next (s.enter (.pageFault ea .dataWrite))) ∧
    (shut (s.reg rB) → (s.reg rB).getLsbD 0 = false →
      ((s.reg rA).toNat ≤ 7 ∨ s.mode = .kernel ∧ (s.reg rA).toNat ≤ 127) →
      ∃ n input, exec (.ssi rA rB) s =
          .next (({ s with draws := n, uartIn := input } : State).enter (.pageFault (s.reg rB) .dataWrite)) ∧
        (input = s.uartIn ∨ (s.reg rA).toNat = s.cfg.uartRx.toNat ∧ input = s.uartIn.tail))

/-- A word access at an odd address under each MISALIGNED_DATA (D6, notes/assumptions/4.md): LDW and STW at the effective
address, LCW, LSI and SSI at the address in rB. LSI is followed to LINK, and for every special register to what SSP does
with the word; SSI stores a register that holds a value, and before a fault may have read its register and thrown the
value away (R67; D35, notes/assumptions/37.md). -/
def Obligations.MisalignedWords : Prop :=
  ∀ (rA rB : Reg) (imm7 : BitVec 7) (s : State), s.bankOk = true → Memory.wf s.mem = true →
    let ea := s.reg rB + BitVec.ofInt 16 imm7.toInt
    let b := s.reg rB
    let a := (s.reg rA).toNat
    let reach : Prop := a ≤ 7 ∨ s.mode = .kernel ∧ a ≤ 127
    let lsiWrites (v : Word) : Prop :=
      (a = 0 → ∃ t, exec (.lsi rA rB) s = .next t ∧ t.pc = s.pc + 2 ∧ s.ComputedOrLink t 0 v) ∧
      (∀ q : Reg, s.reg q = v → exec (.lsi rA rB) s = exec (.ssp q rA) s)
    (s.cfg.misalignedData = .fault →
      (ea.getLsbD 0 = true →
        exec (.ldw rA rB imm7) s = .next (s.enter (.misaligned ea .dataRead)) ∧
        exec (.stw rA rB imm7) s = .next (s.enter (.misaligned ea .dataWrite))) ∧
      (b.getLsbD 0 = true →
        exec (.lcw rA rB) s = .next (s.enter (.misaligned b .codeRead)) ∧
        (reach → exec (.lsi rA rB) s = .next (s.enter (.misaligned b .dataRead)) ∧
          ∃ n input, exec (.ssi rA rB) s =
              .next (({ s with draws := n, uartIn := input } : State).enter (.misaligned b .dataWrite)) ∧
            (input = s.uartIn ∨ a = s.cfg.uartRx.toNat ∧ input = s.uartIn.tail)))) ∧
    (s.cfg.misalignedData = .ignoreBit0 → ∀ pa,
      (ea.getLsbD 0 = true →
        (s.WordReaches (ea - 1) .dataRead pa → ∃ t, exec (.ldw rA rB imm7) s = .next t ∧ s.Loaded t rA (s.wordAt pa)) ∧
        (s.WordStores (ea - 1) pa → ∃ t, exec (.stw rA rB imm7) s = .next t ∧ s.StoredWord t pa (pa + 1) (s.reg rA))) ∧
      (b.getLsbD 0 = true →
        (s.WordReaches (b - 1) .codeRead pa → ∃ t, exec (.lcw rA rB) s = .next t ∧ s.Loaded t rA (s.wordAt pa)) ∧
        (s.WordReaches (b - 1) .dataRead pa → lsiWrites (s.wordAt pa)) ∧
        (s.WordStores (b - 1) pa → ∀ v, s.SpecialHolds a v →
          ∃ t, exec (.ssi rA rB) s = .next t ∧ s.StoredWord t pa (pa + 1) v))) ∧
    (s.cfg.misalignedData = .split → ∀ lo hi,
      (ea.getLsbD 0 = true →
        (s.Reaches ea .dataRead lo → s.Reaches (ea + 1) .dataRead hi → s.IsStorage lo → s.IsStorage hi →
          ∃ t, exec (.ldw rA rB imm7) s = .next t ∧ s.Loaded t rA (s.byteAt hi ++ s.byteAt lo)) ∧
        (s.Reaches ea .dataWrite lo → s.Reaches (ea + 1) .dataWrite hi → s.IsRam lo → s.IsRam hi →
          ∃ t, exec (.stw rA rB imm7) s = .next t ∧ s.StoredWord t lo hi (s.reg rA))) ∧
      (b.getLsbD 0 = true →
        (s.Reaches b .codeRead lo → s.Reaches (b + 1) .codeRead hi → s.IsStorage lo → s.IsStorage hi →
          ∃ t, exec (.lcw rA rB) s = .next t ∧ s.Loaded t rA (s.byteAt hi ++ s.byteAt lo)) ∧
        (s.Reaches b .dataRead lo → s.Reaches (b + 1) .dataRead hi → s.IsStorage lo → s.IsStorage hi →
          lsiWrites (s.byteAt hi ++ s.byteAt lo)) ∧
        (s.Reaches b .dataWrite lo → s.Reaches (b + 1) .dataWrite hi → s.IsRam lo → s.IsRam hi →
          ∀ v, s.SpecialHolds a v → ∃ t, exec (.ssi rA rB) s = .next t ∧ s.StoredWord t lo hi v)))

/-- What stands at a physical address (D31, U32, notes/assumptions/15.md), for a byte (STB, LDB) and for an aligned word
with both its bytes of one kind (STW, LDW, LCW; LCW's byte order is D39, notes/assumptions/41.md): a store to ROM or to
unpopulated addresses changes nothing, a load from unpopulated addresses gives some value. -/
def Obligations.PhysicalKinds : Prop :=
  ∀ (rA rB : Reg) (imm7 : BitVec 7) (s : State) (pa : PhysAddr), s.bankOk = true →
    let ea := s.reg rB + BitVec.ofInt 16 imm7.toInt
    let b := s.reg rB
    let inert (x : PhysAddr) : Prop := s.kindAt x = .rom ∨ s.kindAt x = .unpopulated
    let empty (x : PhysAddr) : Prop := s.kindAt x = .unpopulated
    let loads (i : Instr) : Prop := ∃ t v, exec i s = .next t ∧ s.Loaded t rA v
    (s.Reaches ea .dataWrite pa → inert pa → exec (.stb rA rB imm7) s = .next { s with pc := s.pc + 2 }) ∧
    (s.Reaches ea .dataWrite pa → ea.getLsbD 0 = false → inert pa → inert (pa + 1) →
      exec (.stw rA rB imm7) s = .next { s with pc := s.pc + 2 }) ∧
    (s.Reaches ea .dataRead pa → empty pa → loads (.ldb rA rB imm7)) ∧
    (s.Reaches ea .dataRead pa → ea.getLsbD 0 = false → empty pa → empty (pa + 1) → loads (.ldw rA rB imm7)) ∧
    (s.Reaches b .codeRead pa → b.getLsbD 0 = false → empty pa → empty (pa + 1) → loads (.lcw rA rB))

/-- Memory-mapped devices (R68, R296): a load or store that reaches a device gives it exactly one reference (R66), of the
byte, or of the word where an aligned word is a device's in both bytes; a load's value is the device's answer, a store
changes no memory, and nothing else changes. What a device answers is free, and that a reference has no further effect on
this machine is the model's choice (notes/assumptions/47.md). -/
def Obligations.DeviceReferences : Prop :=
  ∀ (rA rB : Reg) (imm7 : BitVec 7) (s : State) (pa : PhysAddr), s.bankOk = true → s.kindAt pa = .device →
    let ea := s.reg rB + BitVec.ofInt 16 imm7.toInt
    let b := s.reg rB
    let given (r : DeviceRef) : State := { s with deviceRefs := s.deviceRefs ++ [r] }
    let loadsWord (i : Instr) : Prop := ∃ t v, exec i s = .next t ∧ (given (.readWord pa v)).Loaded t rA v
    (s.Reaches ea .dataRead pa → ∃ t x v, exec (.ldb rA rB imm7) s = .next t ∧ (given (.readByte pa x)).Loaded t rA v ∧
      v.toInt = x.toInt) ∧
    (s.Reaches ea .dataWrite pa → exec (.stb rA rB imm7) s =
      .next { given (.writeByte pa ((s.reg rA).extractLsb' 0 8)) with pc := s.pc + 2 }) ∧
    (s.kindAt (pa + 1) = .device →
      (s.Reaches ea .dataRead pa → ea.getLsbD 0 = false → loadsWord (.ldw rA rB imm7)) ∧
      (s.Reaches ea .dataWrite pa → ea.getLsbD 0 = false →
        exec (.stw rA rB imm7) s = .next { given (.writeWord pa (s.reg rA)) with pc := s.pc + 2 }) ∧
      (s.Reaches b .codeRead pa → b.getLsbD 0 = false → loadsWord (.lcw rA rB)))

/-! ### Translation -/

/-- Translation in plain terms (R71, R72): the register that maps the page, in the space of the access and the context of
the mode; the address its frame gives; the permission table. The bits' places are MMU_LAYOUT's (D14,
notes/assumptions/7.md), PP = 10 is MMU_PP_RESERVED's (D15, notes/assumptions/6.md). -/
def Obligations.TranslationTable : Prop :=
  ∀ (va : Word) (acc : Access) (s : State) (page : Fin 16), page.val = va.toNat / 4096 →
    let b := s.bankAt (if s.mode = .kernel then 0 else s.context.toNat)
    let e : Word := if acc = .fetch ∨ acc = .codeRead then b.cmmu.get page else b.dmmu.get page
    let frame : Nat := match s.cfg.mmuLayout with
      | .frameLow => e.toNat % 4096
      | .frameHigh => e.toNat / 16
    let pp : Nat := match s.cfg.mmuLayout with
      | .frameLow => e.toNat / 4096 % 4
      | .frameHigh => e.toNat % 4
    let allowed : Prop := ∃ pa, s.translate va acc = .ok pa ∧ pa.toNat = frame * 4096 + va.toNat % 4096
    let faults : Prop := s.translate va acc = .error (.pageFault va acc)
    (pp = 0 → allowed) ∧
    (pp = 1 → if acc = .dataWrite then faults else allowed) ∧
    (pp = 2 → if reservedFaults s.cfg.ppReserved acc then faults else allowed) ∧
    (pp = 3 → faults)

/-! ### Special registers -/

/-- LSP of a register that holds a value (R22, R25..R29, R31..R34), of one whose read is undefined (R24, R30), and of
the flags word (R23): V : N : Z : C in bits 3:0, and in kernel mode t in bit 8 and ie in bit 9. The other bits
are free (D34, notes/assumptions/39.md); I/O space beside the UART is D29 (notes/assumptions/13.md); address 16, and 16..63
with CONTEXT 0, are D36 and D16 (notes/assumptions/40.md). The UART's receive register is UartTransfers', a CONTEXT that
names no context UnknownContextIsRefused's. -/
def Obligations.LspReads : Prop :=
  ∀ (rA rB : Reg) (s : State), s.bankOk = true →
    (∀ v, s.SpecialHolds (s.reg rB).toNat v → ∃ t, exec (.lsp rA rB) s = .next t ∧ s.Loaded t rA v) ∧
    (s.SpecialUndefined (s.reg rB).toNat → ∃ t v, exec (.lsp rA rB) s = .next t ∧ s.Loaded t rA v) ∧
    ((s.reg rB).toNat = 1 → ∃ t v, exec (.lsp rA rB) s = .next t ∧ s.Loaded t rA v ∧
      v.getLsbD 0 = s.flags.c ∧ v.getLsbD 1 = s.flags.z ∧ v.getLsbD 2 = s.flags.n ∧ v.getLsbD 3 = s.flags.v ∧
      (s.mode = .kernel → v.getLsbD 8 = s.trap ∧ v.getLsbD 9 = s.ie))

/-- SSP to LINK (R22), in both modes, and to the flags word (R23): the current bank's flags, in kernel mode also t; ie
and the other bits are ignored (D34, notes/assumptions/39.md). -/
def Obligations.SspLinkAndFlags : Prop :=
  ∀ (rA rB : Reg) (s : State), s.bankOk = true →
    let v := s.reg rA
    ((s.reg rB).toNat = 0 → ∃ t, exec (.ssp rA rB) s = .next t ∧ t.pc = s.pc + 2 ∧ t.flags = s.flags ∧
      s.ComputedOrLink t 0 v) ∧
    ((s.reg rB).toNat = 1 → ∃ t, exec (.ssp rA rB) s = .next t ∧
      t.flags = ⟨v.getLsbD 0, v.getLsbD 1, v.getLsbD 2, v.getLsbD 3⟩ ∧
      t.trap = (if s.mode = .kernel then v.getLsbD 8 else s.trap) ∧ s.Computed { t with trap := s.trap } 0 0)

/-- SSP to IRR, ISR and CONTEXT is effective (R26, R29, R31), and where writes are ignored nothing changes (R24, R25,
R27, R28, R30; I/O space beside the UART: D29, notes/assumptions/13.md). -/
def Obligations.SspSingletons : Prop :=
  ∀ (rA rB : Reg) (s : State),
    let v := s.reg rA
    let a := (s.reg rB).toNat
    (s.SpecialIgnored a → exec (.ssp rA rB) s = .next { s with pc := s.pc + 2 }) ∧
    (s.mode = .kernel →
      (a = 8 → exec (.ssp rA rB) s = .next { s with irr := v, pc := s.pc + 2 }) ∧
      (a = 11 → exec (.ssp rA rB) s = .next { s with isr := v, pc := s.pc + 2 }) ∧
      (a = 15 → exec (.ssp rA rB) s = .next { s with context := v, pc := s.pc + 2 }))

/-- SSP to the general and MMU registers of the context CONTEXT names, and to the kernel's MMU registers (R32..R34):
that one register of that one context is written in full (address 16 and CONTEXT 0: D36, D16, notes/assumptions/40.md). -/
def Obligations.SspContextRegisters : Prop :=
  ∀ (rA rB : Reg) (s : State), s.mode = .kernel →
    let v := s.reg rA
    let a := (s.reg rB).toNat
    let c := s.context.toNat
    let puts (d : Nat) (b : Bank) : Prop :=
      ∃ t, exec (.ssp rA rB) s = .next t ∧ t.pc = s.pc + 2 ∧ s.OnlyBank t d ∧ t.bankAt d = b
    (c < s.cfg.nctx →
      (∀ i : Reg, a = 16 + i.val → ∃ b, puts c b ∧ (i ≠ 0 → b.reg i = v) ∧ (∀ j, j ≠ i → b.reg j = (s.bankAt c).reg j) ∧
        b.link = (s.bankAt c).link ∧ b.flags = (s.bankAt c).flags ∧ b.cmmu = (s.bankAt c).cmmu ∧
        b.dmmu = (s.bankAt c).dmmu) ∧
      (∀ i : Fin 16, a = 32 + i.val → puts c { s.bankAt c with cmmu := (s.bankAt c).cmmu.set i.val v }) ∧
      (∀ i : Fin 16, a = 48 + i.val → puts c { s.bankAt c with dmmu := (s.bankAt c).dmmu.set i.val v })) ∧
    (∀ i : Fin 16, a = 64 + i.val → puts 0 { s.bankAt 0 with cmmu := (s.bankAt 0).cmmu.set i.val v }) ∧
    (∀ i : Fin 16, a = 80 + i.val → puts 0 { s.bankAt 0 with dmmu := (s.bankAt 0).dmmu.set i.val v })

/-- The UART (R292; which address is which is D28, notes/assumptions/18.md): a transmit appends the low byte to the
output, a receive takes the next input byte, or with none there takes nothing. -/
def Obligations.UartTransfers : Prop :=
  ∀ (rA rB : Reg) (s : State), s.mode = .kernel → 96 ≤ (s.reg rB).toNat →
    ((s.reg rB).toNat = s.cfg.uartTx.toNat →
      exec (.ssp rA rB) s =
        .next { s with uartOut := s.uartOut ++ [(s.reg rA).extractLsb' 0 8], pc := s.pc + 2 }) ∧
    ((s.reg rB).toNat = s.cfg.uartRx.toNat →
      (∀ b rest, s.uartIn = b :: rest → ∃ t v, exec (.lsp rA rB) s = .next t ∧
        ({ s with uartIn := rest } : State).Loaded t rA v ∧ v.toNat % 256 = b.toNat) ∧
      (s.uartIn = [] → ∃ t v, exec (.lsp rA rB) s = .next t ∧ s.Loaded t rA v))

/-- LSI of a word that reaches storage (R181): it completes for every special register in reach; what it writes to LINK
(R22), FLAGS (R23; D34, notes/assumptions/39.md), IRR, ISR, CONTEXT (R26, R29, R31) and the kernel's MMU registers (R34);
an ignored write (in I/O space beside the UART: D29, notes/assumptions/13.md) changes nothing; and whatever the register, it
does what SSP does with that word. -/
def Obligations.LsiResult : Prop :=
  ∀ (rA rB : Reg) (s : State) (pa : PhysAddr), s.WordReaches (s.reg rB) .dataRead pa →
    let v := s.wordAt pa
    let a := (s.reg rA).toNat
    let puts (b : Bank) : Prop :=
      ∃ t, exec (.lsi rA rB) s = .next t ∧ t.pc = s.pc + 2 ∧ s.OnlyBank t 0 ∧ t.bankAt 0 = b
    (a ≤ 7 ∨ s.mode = .kernel ∧ a ≤ 127 ∧ s.context.toNat < s.cfg.nctx →
      ∃ t, exec (.lsi rA rB) s = .next t ∧ t.pc = s.pc + 2 ∧ s.SameMemory t) ∧
    (s.bankOk = true → a = 0 → ∃ t, exec (.lsi rA rB) s = .next t ∧ t.pc = s.pc + 2 ∧ t.flags = s.flags ∧
      s.ComputedOrLink t 0 v) ∧
    (s.bankOk = true → a = 1 → ∃ t, exec (.lsi rA rB) s = .next t ∧
      t.flags = ⟨v.getLsbD 0, v.getLsbD 1, v.getLsbD 2, v.getLsbD 3⟩ ∧
      t.trap = (if s.mode = .kernel then v.getLsbD 8 else s.trap) ∧ s.Computed { t with trap := s.trap } 0 0) ∧
    (s.SpecialIgnored a → exec (.lsi rA rB) s = .next { s with pc := s.pc + 2 }) ∧
    (s.mode = .kernel →
      (a = 8 → exec (.lsi rA rB) s = .next { s with irr := v, pc := s.pc + 2 }) ∧
      (a = 11 → exec (.lsi rA rB) s = .next { s with isr := v, pc := s.pc + 2 }) ∧
      (a = 15 → exec (.lsi rA rB) s = .next { s with context := v, pc := s.pc + 2 }) ∧
      (∀ i : Fin 16, a = 64 + i.val → puts { s.bankAt 0 with cmmu := (s.bankAt 0).cmmu.set i.val v }) ∧
      (∀ i : Fin 16, a = 80 + i.val → puts { s.bankAt 0 with dmmu := (s.bankAt 0).dmmu.set i.val v })) ∧
    (∀ q : Reg, s.reg q = v → exec (.lsi rA rB) s = exec (.ssp q rA) s)

/-- SSI stores the value its special register holds, and nothing else changes (R183): of a register that holds one, of
one whose read is undefined (some value; D29, D34: notes/assumptions/13.md, 39.md), of FLAGS (R23), and of the UART's
receive register, which loses its byte (R292; D28, notes/assumptions/18.md). -/
def Obligations.SsiResult : Prop :=
  ∀ (rA rB : Reg) (s : State) (pa : PhysAddr), Memory.wf s.mem = true → s.WordStores (s.reg rB) pa →
    let a := (s.reg rA).toNat
    (∀ v, s.SpecialHolds a v → ∃ t, exec (.ssi rA rB) s = .next t ∧ s.StoredWord t pa (pa + 1) v) ∧
    (s.SpecialUndefined a → ∃ t v, exec (.ssi rA rB) s = .next t ∧ s.StoredWord t pa (pa + 1) v) ∧
    (a = 1 → ∃ t v, exec (.ssi rA rB) s = .next t ∧ s.StoredWord t pa (pa + 1) v ∧
      v.getLsbD 0 = s.flags.c ∧ v.getLsbD 1 = s.flags.z ∧ v.getLsbD 2 = s.flags.n ∧ v.getLsbD 3 = s.flags.v ∧
      (s.mode = .kernel → v.getLsbD 8 = s.trap ∧ v.getLsbD 9 = s.ie)) ∧
    (s.mode = .kernel → 96 ≤ a → a = s.cfg.uartRx.toNat →
      (∀ b rest, s.uartIn = b :: rest → ∃ t v, exec (.ssi rA rB) s = .next t ∧
        ({ s with uartIn := rest } : State).StoredWord t pa (pa + 1) v ∧ v.toNat % 256 = b.toNat) ∧
      (s.uartIn = [] → ∃ t v, exec (.ssi rA rB) s = .next t ∧ s.StoredWord t pa (pa + 1) v))

/-- In user mode the four special-register instructions raise the illegal instruction trap at every address above 7,
before anything else (R18, R20, R265 (f); the order: D22, notes/assumptions/36.md). -/
def Obligations.UserSpecialAccessIsIllegal : Prop :=
  ∀ (rA rB : Reg) (s : State), s.mode = .user →
    let illegal : Host.Outcome State Fault Refusal := .next (s.enter .illegalInstruction)
    (7 < (s.reg rB).toNat → exec (.lsp rA rB) s = illegal ∧ exec (.ssp rA rB) s = illegal) ∧
    (7 < (s.reg rA).toNat → exec (.lsi rA rB) s = illegal ∧ exec (.ssi rA rB) s = illegal)

/-- A kernel-mode special-register address above 127 under each SPR_ADDR_HIGH (D13, notes/assumptions/5.md), for the four
special-register instructions: the address modulo 128, or the illegal instruction trap. -/
def Obligations.HighSpecialAddress : Prop :=
  ∀ (rA rB q : Reg) (s : State), s.mode = .kernel →
    let illegal : Host.Outcome State Fault Refusal := .next (s.enter .illegalInstruction)
    (127 < (s.reg rB).toNat →
      (s.cfg.sprAddrHigh = .mask7 → (s.reg q).toNat = (s.reg rB).toNat % 128 →
        exec (.lsp rA rB) s = exec (.lsp rA q) s ∧ exec (.ssp rA rB) s = exec (.ssp rA q) s) ∧
      (s.cfg.sprAddrHigh = .illegal → exec (.lsp rA rB) s = illegal ∧ exec (.ssp rA rB) s = illegal)) ∧
    (127 < (s.reg rA).toNat →
      (s.cfg.sprAddrHigh = .mask7 → (s.reg q).toNat = (s.reg rA).toNat % 128 →
        exec (.lsi rA rB) s = exec (.lsi q rB) s ∧ exec (.ssi rA rB) s = exec (.ssi q rB) s) ∧
      (s.cfg.sprAddrHigh = .illegal → exec (.lsi rA rB) s = illegal ∧ exec (.ssi rA rB) s = illegal))

/-- Where CONTEXT names no context, special registers 16..23 and 32..63 and user mode itself have no meaning
(D16, D17, notes/assumptions/16.md); LSI and SSI come to it once their memory address is checked (D22,
notes/assumptions/36.md). -/
def Obligations.UnknownContextIsRefused : Prop :=
  ∀ (rA rB : Reg) (s : State) (pa : PhysAddr),
    let user (a : Nat) : Prop := 16 ≤ a ∧ a ≤ 23 ∨ 32 ≤ a ∧ a ≤ 63
    (s.mode = .kernel → s.cfg.nctx ≤ s.context.toNat →
      (user (s.reg rB).toNat →
        exec (.lsp rA rB) s = .refused .contextOutOfRange ∧ exec (.ssp rA rB) s = .refused .contextOutOfRange) ∧
      (user (s.reg rA).toNat → (s.reg rB).getLsbD 0 = false →
        (s.Reaches (s.reg rB) .dataRead pa → exec (.lsi rA rB) s = .refused .contextOutOfRange) ∧
        (s.Reaches (s.reg rB) .dataWrite pa → exec (.ssi rA rB) s = .refused .contextOutOfRange))) ∧
    (s.mode = .user → s.halted = false → s.interrupted = false →
      (s.context.toNat = 0 ∨ s.cfg.nctx ≤ s.context.toNat) → step s = .refused .userContext)

/-! ### Traps and system instructions -/

/-- R270: a trap, fault, exception or interrupt that is no double fault is entered through its vector. The vectors of
SYS n are 8 + n, those of the other kinds lie in 1..7. IRR is the pc plus 2 for SYS and the pc for every other kind, IDR
the address of a page fault or a misaligned access, ISR under the default encoding 1 from user and 0 from kernel mode. IRR,
IDR and the vectors are D20, D21 and D18 (notes/assumptions/26.md, 27.md, 25.md), ISR and ICR are D19 (8.md, 9.md). -/
def Obligations.TrapEntry : Prop :=
  ∀ (k : TrapKind) (s : State),
    (s.CanEnter ∨ k = .interrupt →
      let t := s.enter k
      s.Entered t k ∧
      (∀ n, k = .sys n → t.irr = s.pc + 2) ∧ ((∀ n, k ≠ .sys n) → t.irr = s.pc) ∧
      (s.cfg.isrLayout = ⟨1, 0, 1⟩ → (s.mode = .user → t.isr = 1) ∧ (s.mode = .kernel → t.isr = 0)) ∧
      (∀ va acc, k = .pageFault va acc → t.idr = va) ∧ (∀ va acc, k = .misaligned va acc → t.idr = va)) ∧
    (∀ n, k = .sys n → k.vector s.cfg.vectors = 8 + n.val) ∧
    ((∀ n, k ≠ .sys n) → 1 ≤ k.vector s.cfg.vectors ∧ k.vector s.cfg.vectors ≤ 7)

/-- ICR_ENC is injective in the kind (R270, D19): two events of different rows of R261 are told apart by what their
entries leave in ICR, whatever the modes before, the addresses and the accesses; all SYS n are one row
(notes/assumptions/9.md). -/
def Obligations.IcrDistinguishesKinds : Prop :=
  ∀ k k' : TrapKind, k.event ≠ k'.event →
    IcrTellsApart k k' ∧
    ∀ s t : State, s.CanEnter ∨ k = .interrupt → t.CanEnter ∨ k' = .interrupt → (s.enter k).icr ≠ (t.enter k').icr

/-- R272: a trap in kernel mode with ie = 0 halts the machine with nothing else changed, or where it is so configured
resets it (D25, notes/assumptions/28.md, 38.md). -/
def Obligations.DoubleFault : Prop :=
  ∀ (k : TrapKind) (s : State), k ≠ .interrupt → s.mode = .kernel → s.ie = false →
    (s.cfg.doubleFault = .halt → s.enter k = { s with halted := true }) ∧
    (s.cfg.doubleFault = .reset →
      let t := s.enter k
      t.mode = .kernel ∧ t.pc = 0 ∧ t.halted = false ∧ t.ie = false ∧ (t.bankAt 0).cmmu.get 0 = 0 ∧
        (t.bankAt 0).dmmu.get 0 = 0 ∧ s.SameMemory t ∧ t.uartOut = s.uartOut ∧ t.cfg = s.cfg)

/-- SYS n enters vector 8 + n in kernel mode, with the address of the next instruction in IRR (R185; D18, D20, D40:
notes/assumptions/25.md, 26.md, 42.md). -/
def Obligations.SysEntry : Prop :=
  ∀ (n : Reg) (s : State), s.CanEnter →
    ∃ t, exec (.sys n 0) s = .next t ∧ s.Entered t (.sys n) ∧ t.pc.toNat = 0x20 + 4 * n.val ∧ t.irr = s.pc + 2

/-- R230: the word 0x0000 raises the illegal instruction trap in both modes, no memory reference being made (that IRR
receives its address: D20, notes/assumptions/26.md). -/
def Obligations.ZeroWordIsIllegal : Prop :=
  decodeWord 0x0000 = .illegal0 ∧ decodeWord 0x0001 = .ldw 1 0 0 ∧ decodeWord 0x0008 = .ldw 0 1 0 ∧
  ∀ s : State, exec .illegal0 s = .next (s.enter .illegalInstruction) ∧
    (s.CanEnter → ∃ t, exec .illegal0 s = .next t ∧ t.irr = s.pc ∧ t.mode = .kernel ∧ s.SameBanks t ∧ s.SameMemory t ∧
      t.deviceRefs = s.deviceRefs)

/-- R107 (b)..(d): DIE, the words of Y06 and SYS with a nonzero rB field raise the illegal instruction trap in both
modes (what the entry writes: D19 to D21, notes/assumptions/8.md, 26.md, 27.md). -/
def Obligations.ReservedWordsAreIllegal : Prop :=
  ∀ (i : Instr) (s : State),
    (i = .die ∨ (∃ rA rB, i = .y06 rA rB) ∨ ∃ n rB, i = .sys n rB ∧ rB ≠ 0) →
    exec i s = .next (s.enter .illegalInstruction) ∧
    (s.CanEnter → ∃ t, exec i s = .next t ∧ s.Entered t .illegalInstruction ∧ t.irr = s.pc)

/-- R231: DI, EI, HLT, RTI trap in user mode with nothing changed; CCF, SCF and (but where BRK_BEHAVIOUR is `illegal`)
BRK run in both modes; DIE traps in both; ie and t play no part (BRK: D27, notes/assumptions/30.md; RTI's reading of ISR: D19, notes/assumptions/8.md, and a CONTEXT
that user mode can run in: D16, D17, notes/assumptions/16.md). -/
def Obligations.PrivilegedInstructions : Prop :=
  ∀ (i : Instr) (s : State),
    (i = .di ∨ i = .ei ∨ i = .hlt ∨ i = .rti → s.mode = .user →
      exec i s = .next (s.enter .illegalInstruction) ∧ (s.enter .illegalInstruction).irr = s.pc ∧
        s.Entered (s.enter .illegalInstruction) .illegalInstruction) ∧
    (i = .di ∨ i = .ei ∨ i = .hlt → s.mode = .kernel → ∃ t, exec i s = .next t ∧ t.pc = s.pc + 2 ∧ t.mode = .kernel) ∧
    (i = .rti → s.mode = .kernel → ¬s.IsrNamesUser ∨ s.userContextOk = true →
      ∃ t, exec i s = .next t ∧ t.pc = s.irr ∧ t.ie = true) ∧
    (i = .ccf ∨ i = .scf ∨ i = .brk ∧ s.cfg.brk ≠ .illegal → s.bankOk = true →
      ∃ t, exec i s = .next t ∧ t.pc = s.pc + 2 ∧ t.mode = s.mode ∧ t.ie = s.ie ∧ t.trap = s.trap) ∧
    (i = .die → exec i s = .next (s.enter .illegalInstruction))

/-- R222, R223: in kernel mode DI clears and EI sets ie, and nothing else changes; in user mode each is illegal. -/
def Obligations.InterruptEnable : Prop :=
  ∀ s : State, decodeWord 0xFFFA = .di ∧ decodeWord 0xFFFB = .ei ∧
    (s.mode = .kernel →
      exec .di s = .next { s with ie := false, pc := s.pc + 2 } ∧ exec .ei s = .next { s with ie := true, pc := s.pc + 2 }) ∧
    (s.mode = .user →
      exec .di s = .next (s.enter .illegalInstruction) ∧ exec .ei s = .next (s.enter .illegalInstruction))

/-- HLT in kernel mode stops the machine (R226); a halted machine makes no step, or where HLT_WAKE is `interrupt` and
ie = 1 waits for the interrupt, which is entered with the pc after the HLT (D26, notes/assumptions/29.md). -/
def Obligations.HaltedMachine : Prop :=
  ∀ s : State,
    (s.mode = .kernel → exec .hlt s = .next { s with halted := true, pc := s.pc + 2 }) ∧
    (s.halted = true →
      (s.cfg.hltWake = .never ∨ s.ie = false → step s = .fault .halted) ∧
      (s.cfg.hltWake = .interrupt → s.ie = true →
        (s.irqLine = false → step s = .next s.boundary) ∧
        (s.irqLine = true → ∃ t, step s = .next t ∧ t.halted = false ∧ t.irr = s.pc ∧ t.mode = .kernel ∧ t.ie = false)))

/-- BRK under each BRK_BEHAVIOUR (R227, D27, notes/assumptions/30.md). -/
def Obligations.BrkBehaviours : Prop :=
  ∀ s : State,
    (s.cfg.brk = .hostServiceThenContinue → exec .brk s = .next { s with pc := s.pc + 2 }) ∧
    (s.cfg.brk = .illegal → exec .brk s = .next (s.enter .illegalInstruction)) ∧
    (s.cfg.brk = .stop → exec .brk s = .next { s with halted := true, pc := s.pc + 2 })

/-- RTI in kernel mode (R228, R276): the mode ISR says, under the default encoding its bit 0 (D19, notes/assumptions/8.md),
the pc from IRR, ie 1, nothing else; into user mode with CONTEXT 0 or naming no context it is refused
(notes/assumptions/16.md). After a trap's entry it returns to the mode before it (R276) wherever the encoding tells the two
modes apart, at the address the entry saved. -/
def Obligations.RtiReturns : Prop :=
  ∀ s : State, s.mode = .kernel →
    (¬s.IsrNamesUser → exec .rti s = .next { s with mode := .kernel, pc := s.irr, ie := true }) ∧
    (s.IsrNamesUser → 0 < s.context.toNat → s.context.toNat < s.cfg.nctx →
      exec .rti s = .next { s with mode := .user, pc := s.irr, ie := true }) ∧
    (s.IsrNamesUser → (s.context.toNat = 0 ∨ s.cfg.nctx ≤ s.context.toNat) → exec .rti s = .refused .userContext) ∧
    (s.cfg.isrLayout = ⟨1, 0, 1⟩ → (s.IsrNamesUser ↔ s.isr.toNat % 2 = 1)) ∧
    (∀ (u : State) (k : TrapKind), s = u.enter k → u.CanEnter → u.bankOk = true → u.cfg.isrLayout.Faithful →
      ∃ t, exec .rti s = .next t ∧ t.mode = u.mode ∧ t.pc = s.irr ∧ t.ie = true)

/-! ### The step -/

/-- A step whose fetch reaches storage runs the instruction its bytes decode to, on the state at the boundary; after it,
in user mode with t set, comes the trace trap, if user mode goes on and the machine runs on (D23, D39:
notes/assumptions/11.md, 41.md). -/
def Obligations.StepRunsDecodedInstruction : Prop :=
  ∀ (s : State) (pa : PhysAddr) (i : Instr), s.Fetches → s.WordReaches s.pc .fetch pa →
    decode [s.byteAt pa, s.byteAt (pa + 1)] = .ok (i, []) →
    (s.armed = false → step s = exec i s.boundary) ∧
    (s.armed = true →
      (∀ t, exec i s.boundary = .next t →
        step s = .next (if t.mode = .user ∧ t.halted = false then t.enter .trace else t)) ∧
      ((∀ t, exec i s.boundary ≠ .next t) → step s = exec i s.boundary))

/-- A fetch from an invalid page is the page fault, with IRR = IDR = pc where it can be entered (R73, R266; D20,
D21: notes/assumptions/26.md, 27.md). -/
def Obligations.FetchPageFault : Prop :=
  ∀ s : State, s.Fetches → s.InvalidPage s.pc .fetch → s.pc.getLsbD 0 = false →
    step s = .next (s.boundary.enter (.pageFault s.pc .fetch)) ∧
    (s.CanEnter → ∃ t, step s = .next t ∧ s.boundary.Entered t (.pageFault s.pc .fetch) ∧ t.irr = s.pc ∧ t.idr = s.pc)

/-- A fetch at an odd pc under each MISALIGNED_PC (D7, notes/assumptions/19.md). -/
def Obligations.MisalignedFetch : Prop :=
  ∀ (s : State) (pa : PhysAddr), s.Fetches → s.pc.getLsbD 0 = true →
    (s.cfg.misalignedPc = .fault → step s = .next (s.boundary.enter (.misaligned s.pc .fetch))) ∧
    (s.cfg.misalignedPc = .ignoreBit0 → s.WordReaches (s.pc - 1) .fetch pa → s.armed = false →
      step s = exec (decodeWord (s.wordAt pa)) s.boundary)

/-- The trace trap (R268, D23, notes/assumptions/11.md): under `after` a user instruction that completes is followed by
the entry with IRR the new pc; under `before` the entry takes the place of the instruction. -/
def Obligations.TraceTrap : Prop :=
  ∀ s : State, s.halted = false → s.interrupted = false → s.userContextOk = true → s.mode = .user → s.trap = true →
    (s.cfg.traceTiming = .before → ∃ t, step s = .next t ∧ s.boundary.Entered t .trace ∧ t.irr = s.pc) ∧
    (s.cfg.traceTiming = .after → ∀ pa u, s.WordReaches s.pc .fetch pa →
      exec (decodeWord (s.wordAt pa)) s.boundary = .next u → u.mode = .user → u.halted = false →
      ∃ t, step s = .next t ∧ u.Entered t .trace ∧ t.irr = u.pc ∧ t.trap = true)

/-- R264: an interrupt request at a boundary with ie = 1 is entered in place of the next instruction, with IRR its
address; with ie = 0 the request changes nothing (D24, notes/assumptions/31.md). -/
def Obligations.InterruptBoundary : Prop :=
  ∀ s : State, s.halted = false →
    (s.ie = true → s.irqLine = true → ∃ t, step s = .next t ∧ s.boundary.Entered t .interrupt ∧ t.irr = s.pc) ∧
    (s.ie = false → step s = step { s with irqInput := false :: s.irqInput.tail })

/-- Every step keeps the invariant of a run: memory in its canonical form, user mode with interrupts enabled (R264) and
in a context that exists and is not the kernel's (D16, D17: notes/assumptions/16.md). -/
def Obligations.StepKeepsInvariant : Prop := ∀ s t : State, s.Inv → step s = .next t → t.Inv

/-- The invariant holds at reset. -/
def Obligations.ResetMeetsInvariant : Prop := State.reset.Inv

/-- What the spec fixes of the state after power-on reset holds of `State.reset` (R320, R321, R322; ie = 0 is D25,
notes/assumptions/28.md). -/
def Obligations.ResetState : Prop := State.reset.PowerOn

/-- A byte of memory changes only where the code that ran may write: at the physical address of a data address it could
translate for writing (R71, R272). True of every step in either mode, the reset after a double fault too: that memory
survives it is the model's choice (notes/assumptions/38.md), and so is that no other agent writes (44.md). -/
def Obligations.StoresNeedWritablePages : Prop :=
  ∀ (s t : State) (pa : PhysAddr), step s = .next t → t.byteAt pa ≠ s.byteAt pa →
    ∃ va : Word, s.translate va .dataWrite = .ok pa

/-- A step of user code changes no other context, no MMU register, not CONTEXT, t, the UART or the parameters; the
exception registers and ie change only by a trap's entry into kernel mode, through a vector 1..15 with ISR user (R278;
D18, D19: notes/assumptions/25.md, 8.md). -/
def Obligations.UserCodeIsConfined : Prop :=
  ∀ s t : State, s.mode = .user → step s = .next t →
    s.SameBanksBut t s.context.toNat ∧ (t.bankAt s.context.toNat).cmmu = (s.bankAt s.context.toNat).cmmu ∧
    (t.bankAt s.context.toNat).dmmu = (s.bankAt s.context.toNat).dmmu ∧
    t.context = s.context ∧ t.trap = s.trap ∧ t.uartIn = s.uartIn ∧ t.uartOut = s.uartOut ∧ t.cfg = s.cfg ∧
    (t.mode = .user → t.ie = s.ie ∧ t.irr = s.irr ∧ t.icr = s.icr ∧ t.idr = s.idr ∧ t.isr = s.isr) ∧
    (t.mode = .kernel → t.ie = false ∧ t.isr = s.cfg.isrLayout.user ∧ ∃ k, 1 ≤ k ∧ k ≤ 15 ∧ t.pc.toNat = 4 * k)

/-- Kernel mode is left only by RTI with ISR naming user (R10, R278): a step from kernel to user mode fetched the word
0xFFFE, and goes on at IRR, interrupts enabled, in the context CONTEXT names, one that exists and is not the kernel's (C5,
C6, D19: notes/assumptions/46.md, 8.md; CONTEXT: D16, D17, notes/assumptions/16.md). -/
def Obligations.UserModeOnlyByRti : Prop :=
  ∀ s t : State, s.mode = .kernel → step s = .next t → t.mode = .user →
    (∃ u, s.boundary.fetch = .ok 0xFFFE u) ∧ s.IsrNamesUser ∧ t.pc = s.irr ∧ t.ie = true ∧ t.userContextOk = true
end

