-- ==== Sys2Proof/Laws/State.lean ====
section
/-! SUPPORT. What every named update of State leaves in every field: one lemma a field, each true by unfolding, so that no
later proof unfolds an update. The banks that an update of the current bank leaves are in Laws/Bank.lean. -/

namespace Sys2Proof.Machine

/-! ### setBankAt -/

@[simp] theorem State.setBankAt_mode (s : State) (c : Nat) (b : Bank) : (s.setBankAt c b).mode = s.mode := rfl
@[simp] theorem State.setBankAt_pc (s : State) (c : Nat) (b : Bank) : (s.setBankAt c b).pc = s.pc := rfl
@[simp] theorem State.setBankAt_ie (s : State) (c : Nat) (b : Bank) : (s.setBankAt c b).ie = s.ie := rfl
@[simp] theorem State.setBankAt_trap (s : State) (c : Nat) (b : Bank) : (s.setBankAt c b).trap = s.trap := rfl
@[simp] theorem State.setBankAt_halted (s : State) (c : Nat) (b : Bank) : (s.setBankAt c b).halted = s.halted := rfl
@[simp] theorem State.setBankAt_context (s : State) (c : Nat) (b : Bank) : (s.setBankAt c b).context = s.context := rfl
@[simp] theorem State.setBankAt_irr (s : State) (c : Nat) (b : Bank) : (s.setBankAt c b).irr = s.irr := rfl
@[simp] theorem State.setBankAt_icr (s : State) (c : Nat) (b : Bank) : (s.setBankAt c b).icr = s.icr := rfl
@[simp] theorem State.setBankAt_idr (s : State) (c : Nat) (b : Bank) : (s.setBankAt c b).idr = s.idr := rfl
@[simp] theorem State.setBankAt_isr (s : State) (c : Nat) (b : Bank) : (s.setBankAt c b).isr = s.isr := rfl
@[simp] theorem State.setBankAt_cycles (s : State) (c : Nat) (b : Bank) : (s.setBankAt c b).cycles = s.cycles := rfl
@[simp] theorem State.setBankAt_mem (s : State) (c : Nat) (b : Bank) : (s.setBankAt c b).mem = s.mem := rfl
@[simp] theorem State.setBankAt_uartIn (s : State) (c : Nat) (b : Bank) : (s.setBankAt c b).uartIn = s.uartIn := rfl
@[simp] theorem State.setBankAt_uartOut (s : State) (c : Nat) (b : Bank) : (s.setBankAt c b).uartOut = s.uartOut := rfl
@[simp] theorem State.setBankAt_deviceRefs (s : State) (c : Nat) (b : Bank) : (s.setBankAt c b).deviceRefs = s.deviceRefs := rfl
@[simp] theorem State.setBankAt_irqInput (s : State) (c : Nat) (b : Bank) : (s.setBankAt c b).irqInput = s.irqInput := rfl
@[simp] theorem State.setBankAt_draws (s : State) (c : Nat) (b : Bank) : (s.setBankAt c b).draws = s.draws := rfl
@[simp] theorem State.setBankAt_cfg (s : State) (c : Nat) (b : Bank) : (s.setBankAt c b).cfg = s.cfg := rfl

/-! ### setBank -/

@[simp] theorem State.setBank_mode (s : State) (b : Bank) : (s.setBank b).mode = s.mode := rfl
@[simp] theorem State.setBank_pc (s : State) (b : Bank) : (s.setBank b).pc = s.pc := rfl
@[simp] theorem State.setBank_ie (s : State) (b : Bank) : (s.setBank b).ie = s.ie := rfl
@[simp] theorem State.setBank_trap (s : State) (b : Bank) : (s.setBank b).trap = s.trap := rfl
@[simp] theorem State.setBank_halted (s : State) (b : Bank) : (s.setBank b).halted = s.halted := rfl
@[simp] theorem State.setBank_context (s : State) (b : Bank) : (s.setBank b).context = s.context := rfl
@[simp] theorem State.setBank_irr (s : State) (b : Bank) : (s.setBank b).irr = s.irr := rfl
@[simp] theorem State.setBank_icr (s : State) (b : Bank) : (s.setBank b).icr = s.icr := rfl
@[simp] theorem State.setBank_idr (s : State) (b : Bank) : (s.setBank b).idr = s.idr := rfl
@[simp] theorem State.setBank_isr (s : State) (b : Bank) : (s.setBank b).isr = s.isr := rfl
@[simp] theorem State.setBank_cycles (s : State) (b : Bank) : (s.setBank b).cycles = s.cycles := rfl
@[simp] theorem State.setBank_mem (s : State) (b : Bank) : (s.setBank b).mem = s.mem := rfl
@[simp] theorem State.setBank_uartIn (s : State) (b : Bank) : (s.setBank b).uartIn = s.uartIn := rfl
@[simp] theorem State.setBank_uartOut (s : State) (b : Bank) : (s.setBank b).uartOut = s.uartOut := rfl
@[simp] theorem State.setBank_deviceRefs (s : State) (b : Bank) : (s.setBank b).deviceRefs = s.deviceRefs := rfl
@[simp] theorem State.setBank_irqInput (s : State) (b : Bank) : (s.setBank b).irqInput = s.irqInput := rfl
@[simp] theorem State.setBank_draws (s : State) (b : Bank) : (s.setBank b).draws = s.draws := rfl
@[simp] theorem State.setBank_cfg (s : State) (b : Bank) : (s.setBank b).cfg = s.cfg := rfl

/-! ### setReg -/

@[simp] theorem State.setReg_mode (s : State) (r : Reg) (v : Word) : (s.setReg r v).mode = s.mode := rfl
@[simp] theorem State.setReg_pc (s : State) (r : Reg) (v : Word) : (s.setReg r v).pc = s.pc := rfl
@[simp] theorem State.setReg_ie (s : State) (r : Reg) (v : Word) : (s.setReg r v).ie = s.ie := rfl
@[simp] theorem State.setReg_trap (s : State) (r : Reg) (v : Word) : (s.setReg r v).trap = s.trap := rfl
@[simp] theorem State.setReg_halted (s : State) (r : Reg) (v : Word) : (s.setReg r v).halted = s.halted := rfl
@[simp] theorem State.setReg_context (s : State) (r : Reg) (v : Word) : (s.setReg r v).context = s.context := rfl
@[simp] theorem State.setReg_irr (s : State) (r : Reg) (v : Word) : (s.setReg r v).irr = s.irr := rfl
@[simp] theorem State.setReg_icr (s : State) (r : Reg) (v : Word) : (s.setReg r v).icr = s.icr := rfl
@[simp] theorem State.setReg_idr (s : State) (r : Reg) (v : Word) : (s.setReg r v).idr = s.idr := rfl
@[simp] theorem State.setReg_isr (s : State) (r : Reg) (v : Word) : (s.setReg r v).isr = s.isr := rfl
@[simp] theorem State.setReg_cycles (s : State) (r : Reg) (v : Word) : (s.setReg r v).cycles = s.cycles := rfl
@[simp] theorem State.setReg_mem (s : State) (r : Reg) (v : Word) : (s.setReg r v).mem = s.mem := rfl
@[simp] theorem State.setReg_uartIn (s : State) (r : Reg) (v : Word) : (s.setReg r v).uartIn = s.uartIn := rfl
@[simp] theorem State.setReg_uartOut (s : State) (r : Reg) (v : Word) : (s.setReg r v).uartOut = s.uartOut := rfl
@[simp] theorem State.setReg_deviceRefs (s : State) (r : Reg) (v : Word) : (s.setReg r v).deviceRefs = s.deviceRefs := rfl
@[simp] theorem State.setReg_irqInput (s : State) (r : Reg) (v : Word) : (s.setReg r v).irqInput = s.irqInput := rfl
@[simp] theorem State.setReg_draws (s : State) (r : Reg) (v : Word) : (s.setReg r v).draws = s.draws := rfl
@[simp] theorem State.setReg_cfg (s : State) (r : Reg) (v : Word) : (s.setReg r v).cfg = s.cfg := rfl

/-! ### setLink -/

@[simp] theorem State.setLink_mode (s : State) (v : Word) : (s.setLink v).mode = s.mode := rfl
@[simp] theorem State.setLink_pc (s : State) (v : Word) : (s.setLink v).pc = s.pc := rfl
@[simp] theorem State.setLink_ie (s : State) (v : Word) : (s.setLink v).ie = s.ie := rfl
@[simp] theorem State.setLink_trap (s : State) (v : Word) : (s.setLink v).trap = s.trap := rfl
@[simp] theorem State.setLink_halted (s : State) (v : Word) : (s.setLink v).halted = s.halted := rfl
@[simp] theorem State.setLink_context (s : State) (v : Word) : (s.setLink v).context = s.context := rfl
@[simp] theorem State.setLink_irr (s : State) (v : Word) : (s.setLink v).irr = s.irr := rfl
@[simp] theorem State.setLink_icr (s : State) (v : Word) : (s.setLink v).icr = s.icr := rfl
@[simp] theorem State.setLink_idr (s : State) (v : Word) : (s.setLink v).idr = s.idr := rfl
@[simp] theorem State.setLink_isr (s : State) (v : Word) : (s.setLink v).isr = s.isr := rfl
@[simp] theorem State.setLink_cycles (s : State) (v : Word) : (s.setLink v).cycles = s.cycles := rfl
@[simp] theorem State.setLink_mem (s : State) (v : Word) : (s.setLink v).mem = s.mem := rfl
@[simp] theorem State.setLink_uartIn (s : State) (v : Word) : (s.setLink v).uartIn = s.uartIn := rfl
@[simp] theorem State.setLink_uartOut (s : State) (v : Word) : (s.setLink v).uartOut = s.uartOut := rfl
@[simp] theorem State.setLink_deviceRefs (s : State) (v : Word) : (s.setLink v).deviceRefs = s.deviceRefs := rfl
@[simp] theorem State.setLink_irqInput (s : State) (v : Word) : (s.setLink v).irqInput = s.irqInput := rfl
@[simp] theorem State.setLink_draws (s : State) (v : Word) : (s.setLink v).draws = s.draws := rfl
@[simp] theorem State.setLink_cfg (s : State) (v : Word) : (s.setLink v).cfg = s.cfg := rfl

/-! ### setFlags -/

@[simp] theorem State.setFlags_mode (s : State) (f : Flags) : (s.setFlags f).mode = s.mode := rfl
@[simp] theorem State.setFlags_pc (s : State) (f : Flags) : (s.setFlags f).pc = s.pc := rfl
@[simp] theorem State.setFlags_ie (s : State) (f : Flags) : (s.setFlags f).ie = s.ie := rfl
@[simp] theorem State.setFlags_trap (s : State) (f : Flags) : (s.setFlags f).trap = s.trap := rfl
@[simp] theorem State.setFlags_halted (s : State) (f : Flags) : (s.setFlags f).halted = s.halted := rfl
@[simp] theorem State.setFlags_context (s : State) (f : Flags) : (s.setFlags f).context = s.context := rfl
@[simp] theorem State.setFlags_irr (s : State) (f : Flags) : (s.setFlags f).irr = s.irr := rfl
@[simp] theorem State.setFlags_icr (s : State) (f : Flags) : (s.setFlags f).icr = s.icr := rfl
@[simp] theorem State.setFlags_idr (s : State) (f : Flags) : (s.setFlags f).idr = s.idr := rfl
@[simp] theorem State.setFlags_isr (s : State) (f : Flags) : (s.setFlags f).isr = s.isr := rfl
@[simp] theorem State.setFlags_cycles (s : State) (f : Flags) : (s.setFlags f).cycles = s.cycles := rfl
@[simp] theorem State.setFlags_mem (s : State) (f : Flags) : (s.setFlags f).mem = s.mem := rfl
@[simp] theorem State.setFlags_uartIn (s : State) (f : Flags) : (s.setFlags f).uartIn = s.uartIn := rfl
@[simp] theorem State.setFlags_uartOut (s : State) (f : Flags) : (s.setFlags f).uartOut = s.uartOut := rfl
@[simp] theorem State.setFlags_deviceRefs (s : State) (f : Flags) : (s.setFlags f).deviceRefs = s.deviceRefs := rfl
@[simp] theorem State.setFlags_irqInput (s : State) (f : Flags) : (s.setFlags f).irqInput = s.irqInput := rfl
@[simp] theorem State.setFlags_draws (s : State) (f : Flags) : (s.setFlags f).draws = s.draws := rfl
@[simp] theorem State.setFlags_cfg (s : State) (f : Flags) : (s.setFlags f).cfg = s.cfg := rfl

/-! ### advance -/

@[simp] theorem State.advance_mode (s : State) : (s.advance).mode = s.mode := rfl
@[simp] theorem State.advance_pc (s : State) : (s.advance).pc = s.pc + 2 := rfl
@[simp] theorem State.advance_ie (s : State) : (s.advance).ie = s.ie := rfl
@[simp] theorem State.advance_trap (s : State) : (s.advance).trap = s.trap := rfl
@[simp] theorem State.advance_halted (s : State) : (s.advance).halted = s.halted := rfl
@[simp] theorem State.advance_banks (s : State) : (s.advance).banks = s.banks := rfl
@[simp] theorem State.advance_context (s : State) : (s.advance).context = s.context := rfl
@[simp] theorem State.advance_irr (s : State) : (s.advance).irr = s.irr := rfl
@[simp] theorem State.advance_icr (s : State) : (s.advance).icr = s.icr := rfl
@[simp] theorem State.advance_idr (s : State) : (s.advance).idr = s.idr := rfl
@[simp] theorem State.advance_isr (s : State) : (s.advance).isr = s.isr := rfl
@[simp] theorem State.advance_cycles (s : State) : (s.advance).cycles = s.cycles := rfl
@[simp] theorem State.advance_mem (s : State) : (s.advance).mem = s.mem := rfl
@[simp] theorem State.advance_uartIn (s : State) : (s.advance).uartIn = s.uartIn := rfl
@[simp] theorem State.advance_uartOut (s : State) : (s.advance).uartOut = s.uartOut := rfl
@[simp] theorem State.advance_deviceRefs (s : State) : (s.advance).deviceRefs = s.deviceRefs := rfl
@[simp] theorem State.advance_irqInput (s : State) : (s.advance).irqInput = s.irqInput := rfl
@[simp] theorem State.advance_draws (s : State) : (s.advance).draws = s.draws := rfl
@[simp] theorem State.advance_cfg (s : State) : (s.advance).cfg = s.cfg := rfl

/-! ### jump -/

@[simp] theorem State.jump_mode (s : State) (a : Word) : (s.jump a).mode = s.mode := rfl
@[simp] theorem State.jump_pc (s : State) (a : Word) : (s.jump a).pc = a := rfl
@[simp] theorem State.jump_ie (s : State) (a : Word) : (s.jump a).ie = s.ie := rfl
@[simp] theorem State.jump_trap (s : State) (a : Word) : (s.jump a).trap = s.trap := rfl
@[simp] theorem State.jump_halted (s : State) (a : Word) : (s.jump a).halted = s.halted := rfl
@[simp] theorem State.jump_banks (s : State) (a : Word) : (s.jump a).banks = s.banks := rfl
@[simp] theorem State.jump_context (s : State) (a : Word) : (s.jump a).context = s.context := rfl
@[simp] theorem State.jump_irr (s : State) (a : Word) : (s.jump a).irr = s.irr := rfl
@[simp] theorem State.jump_icr (s : State) (a : Word) : (s.jump a).icr = s.icr := rfl
@[simp] theorem State.jump_idr (s : State) (a : Word) : (s.jump a).idr = s.idr := rfl
@[simp] theorem State.jump_isr (s : State) (a : Word) : (s.jump a).isr = s.isr := rfl
@[simp] theorem State.jump_cycles (s : State) (a : Word) : (s.jump a).cycles = s.cycles := rfl
@[simp] theorem State.jump_mem (s : State) (a : Word) : (s.jump a).mem = s.mem := rfl
@[simp] theorem State.jump_uartIn (s : State) (a : Word) : (s.jump a).uartIn = s.uartIn := rfl
@[simp] theorem State.jump_uartOut (s : State) (a : Word) : (s.jump a).uartOut = s.uartOut := rfl
@[simp] theorem State.jump_deviceRefs (s : State) (a : Word) : (s.jump a).deviceRefs = s.deviceRefs := rfl
@[simp] theorem State.jump_irqInput (s : State) (a : Word) : (s.jump a).irqInput = s.irqInput := rfl
@[simp] theorem State.jump_draws (s : State) (a : Word) : (s.jump a).draws = s.draws := rfl
@[simp] theorem State.jump_cfg (s : State) (a : Word) : (s.jump a).cfg = s.cfg := rfl

/-! ### drawn -/

@[simp] theorem State.drawn_mode (s : State) : (s.drawn).mode = s.mode := rfl
@[simp] theorem State.drawn_pc (s : State) : (s.drawn).pc = s.pc := rfl
@[simp] theorem State.drawn_ie (s : State) : (s.drawn).ie = s.ie := rfl
@[simp] theorem State.drawn_trap (s : State) : (s.drawn).trap = s.trap := rfl
@[simp] theorem State.drawn_halted (s : State) : (s.drawn).halted = s.halted := rfl
@[simp] theorem State.drawn_banks (s : State) : (s.drawn).banks = s.banks := rfl
@[simp] theorem State.drawn_context (s : State) : (s.drawn).context = s.context := rfl
@[simp] theorem State.drawn_irr (s : State) : (s.drawn).irr = s.irr := rfl
@[simp] theorem State.drawn_icr (s : State) : (s.drawn).icr = s.icr := rfl
@[simp] theorem State.drawn_idr (s : State) : (s.drawn).idr = s.idr := rfl
@[simp] theorem State.drawn_isr (s : State) : (s.drawn).isr = s.isr := rfl
@[simp] theorem State.drawn_cycles (s : State) : (s.drawn).cycles = s.cycles := rfl
@[simp] theorem State.drawn_mem (s : State) : (s.drawn).mem = s.mem := rfl
@[simp] theorem State.drawn_uartIn (s : State) : (s.drawn).uartIn = s.uartIn := rfl
@[simp] theorem State.drawn_uartOut (s : State) : (s.drawn).uartOut = s.uartOut := rfl
@[simp] theorem State.drawn_deviceRefs (s : State) : (s.drawn).deviceRefs = s.deviceRefs := rfl
@[simp] theorem State.drawn_irqInput (s : State) : (s.drawn).irqInput = s.irqInput := rfl
@[simp] theorem State.drawn_draws (s : State) : (s.drawn).draws = s.draws + 1 := rfl
@[simp] theorem State.drawn_cfg (s : State) : (s.drawn).cfg = s.cfg := rfl

/-! ### setByteAt -/

@[simp] theorem State.setByteAt_mode (s : State) (pa : PhysAddr) (b : Byte) : (s.setByteAt pa b).mode = s.mode := rfl
@[simp] theorem State.setByteAt_pc (s : State) (pa : PhysAddr) (b : Byte) : (s.setByteAt pa b).pc = s.pc := rfl
@[simp] theorem State.setByteAt_ie (s : State) (pa : PhysAddr) (b : Byte) : (s.setByteAt pa b).ie = s.ie := rfl
@[simp] theorem State.setByteAt_trap (s : State) (pa : PhysAddr) (b : Byte) : (s.setByteAt pa b).trap = s.trap := rfl
@[simp] theorem State.setByteAt_halted (s : State) (pa : PhysAddr) (b : Byte) : (s.setByteAt pa b).halted = s.halted := rfl
@[simp] theorem State.setByteAt_banks (s : State) (pa : PhysAddr) (b : Byte) : (s.setByteAt pa b).banks = s.banks := rfl
@[simp] theorem State.setByteAt_context (s : State) (pa : PhysAddr) (b : Byte) : (s.setByteAt pa b).context = s.context := rfl
@[simp] theorem State.setByteAt_irr (s : State) (pa : PhysAddr) (b : Byte) : (s.setByteAt pa b).irr = s.irr := rfl
@[simp] theorem State.setByteAt_icr (s : State) (pa : PhysAddr) (b : Byte) : (s.setByteAt pa b).icr = s.icr := rfl
@[simp] theorem State.setByteAt_idr (s : State) (pa : PhysAddr) (b : Byte) : (s.setByteAt pa b).idr = s.idr := rfl
@[simp] theorem State.setByteAt_isr (s : State) (pa : PhysAddr) (b : Byte) : (s.setByteAt pa b).isr = s.isr := rfl
@[simp] theorem State.setByteAt_cycles (s : State) (pa : PhysAddr) (b : Byte) : (s.setByteAt pa b).cycles = s.cycles := rfl
@[simp] theorem State.setByteAt_mem (s : State) (pa : PhysAddr) (b : Byte) : (s.setByteAt pa b).mem = Memory.write s.mem pa.toNat b := rfl
@[simp] theorem State.setByteAt_uartIn (s : State) (pa : PhysAddr) (b : Byte) : (s.setByteAt pa b).uartIn = s.uartIn := rfl
@[simp] theorem State.setByteAt_uartOut (s : State) (pa : PhysAddr) (b : Byte) : (s.setByteAt pa b).uartOut = s.uartOut := rfl
@[simp] theorem State.setByteAt_deviceRefs (s : State) (pa : PhysAddr) (b : Byte) : (s.setByteAt pa b).deviceRefs = s.deviceRefs := rfl
@[simp] theorem State.setByteAt_irqInput (s : State) (pa : PhysAddr) (b : Byte) : (s.setByteAt pa b).irqInput = s.irqInput := rfl
@[simp] theorem State.setByteAt_draws (s : State) (pa : PhysAddr) (b : Byte) : (s.setByteAt pa b).draws = s.draws := rfl
@[simp] theorem State.setByteAt_cfg (s : State) (pa : PhysAddr) (b : Byte) : (s.setByteAt pa b).cfg = s.cfg := rfl

/-! ### referred: a reference given to a device -/

@[simp] theorem State.referred_mode (s : State) (r : DeviceRef) : (s.referred r).mode = s.mode := rfl
@[simp] theorem State.referred_pc (s : State) (r : DeviceRef) : (s.referred r).pc = s.pc := rfl
@[simp] theorem State.referred_ie (s : State) (r : DeviceRef) : (s.referred r).ie = s.ie := rfl
@[simp] theorem State.referred_trap (s : State) (r : DeviceRef) : (s.referred r).trap = s.trap := rfl
@[simp] theorem State.referred_halted (s : State) (r : DeviceRef) : (s.referred r).halted = s.halted := rfl
@[simp] theorem State.referred_banks (s : State) (r : DeviceRef) : (s.referred r).banks = s.banks := rfl
@[simp] theorem State.referred_context (s : State) (r : DeviceRef) : (s.referred r).context = s.context := rfl
@[simp] theorem State.referred_irr (s : State) (r : DeviceRef) : (s.referred r).irr = s.irr := rfl
@[simp] theorem State.referred_icr (s : State) (r : DeviceRef) : (s.referred r).icr = s.icr := rfl
@[simp] theorem State.referred_idr (s : State) (r : DeviceRef) : (s.referred r).idr = s.idr := rfl
@[simp] theorem State.referred_isr (s : State) (r : DeviceRef) : (s.referred r).isr = s.isr := rfl
@[simp] theorem State.referred_cycles (s : State) (r : DeviceRef) : (s.referred r).cycles = s.cycles := rfl
@[simp] theorem State.referred_mem (s : State) (r : DeviceRef) : (s.referred r).mem = s.mem := rfl
@[simp] theorem State.referred_uartIn (s : State) (r : DeviceRef) : (s.referred r).uartIn = s.uartIn := rfl
@[simp] theorem State.referred_uartOut (s : State) (r : DeviceRef) : (s.referred r).uartOut = s.uartOut := rfl
@[simp] theorem State.referred_irqInput (s : State) (r : DeviceRef) : (s.referred r).irqInput = s.irqInput := rfl
@[simp] theorem State.referred_draws (s : State) (r : DeviceRef) : (s.referred r).draws = s.draws := rfl
@[simp] theorem State.referred_cfg (s : State) (r : DeviceRef) : (s.referred r).cfg = s.cfg := rfl
@[simp] theorem State.referred_deviceRefs (s : State) (r : DeviceRef) : (s.referred r).deviceRefs = s.deviceRefs ++ [r] := rfl

/-! ### setIe -/

@[simp] theorem State.setIe_mode (s : State) (b : Bool) : (s.setIe b).mode = s.mode := rfl
@[simp] theorem State.setIe_pc (s : State) (b : Bool) : (s.setIe b).pc = s.pc := rfl
@[simp] theorem State.setIe_ie (s : State) (b : Bool) : (s.setIe b).ie = b := rfl
@[simp] theorem State.setIe_trap (s : State) (b : Bool) : (s.setIe b).trap = s.trap := rfl
@[simp] theorem State.setIe_halted (s : State) (b : Bool) : (s.setIe b).halted = s.halted := rfl
@[simp] theorem State.setIe_banks (s : State) (b : Bool) : (s.setIe b).banks = s.banks := rfl
@[simp] theorem State.setIe_context (s : State) (b : Bool) : (s.setIe b).context = s.context := rfl
@[simp] theorem State.setIe_irr (s : State) (b : Bool) : (s.setIe b).irr = s.irr := rfl
@[simp] theorem State.setIe_icr (s : State) (b : Bool) : (s.setIe b).icr = s.icr := rfl
@[simp] theorem State.setIe_idr (s : State) (b : Bool) : (s.setIe b).idr = s.idr := rfl
@[simp] theorem State.setIe_isr (s : State) (b : Bool) : (s.setIe b).isr = s.isr := rfl
@[simp] theorem State.setIe_cycles (s : State) (b : Bool) : (s.setIe b).cycles = s.cycles := rfl
@[simp] theorem State.setIe_mem (s : State) (b : Bool) : (s.setIe b).mem = s.mem := rfl
@[simp] theorem State.setIe_uartIn (s : State) (b : Bool) : (s.setIe b).uartIn = s.uartIn := rfl
@[simp] theorem State.setIe_uartOut (s : State) (b : Bool) : (s.setIe b).uartOut = s.uartOut := rfl
@[simp] theorem State.setIe_deviceRefs (s : State) (b : Bool) : (s.setIe b).deviceRefs = s.deviceRefs := rfl
@[simp] theorem State.setIe_irqInput (s : State) (b : Bool) : (s.setIe b).irqInput = s.irqInput := rfl
@[simp] theorem State.setIe_draws (s : State) (b : Bool) : (s.setIe b).draws = s.draws := rfl
@[simp] theorem State.setIe_cfg (s : State) (b : Bool) : (s.setIe b).cfg = s.cfg := rfl

/-! ### halt -/

@[simp] theorem State.halt_mode (s : State) : (s.halt).mode = s.mode := rfl
@[simp] theorem State.halt_pc (s : State) : (s.halt).pc = s.pc := rfl
@[simp] theorem State.halt_ie (s : State) : (s.halt).ie = s.ie := rfl
@[simp] theorem State.halt_trap (s : State) : (s.halt).trap = s.trap := rfl
@[simp] theorem State.halt_halted (s : State) : (s.halt).halted = true := rfl
@[simp] theorem State.halt_banks (s : State) : (s.halt).banks = s.banks := rfl
@[simp] theorem State.halt_context (s : State) : (s.halt).context = s.context := rfl
@[simp] theorem State.halt_irr (s : State) : (s.halt).irr = s.irr := rfl
@[simp] theorem State.halt_icr (s : State) : (s.halt).icr = s.icr := rfl
@[simp] theorem State.halt_idr (s : State) : (s.halt).idr = s.idr := rfl
@[simp] theorem State.halt_isr (s : State) : (s.halt).isr = s.isr := rfl
@[simp] theorem State.halt_cycles (s : State) : (s.halt).cycles = s.cycles := rfl
@[simp] theorem State.halt_mem (s : State) : (s.halt).mem = s.mem := rfl
@[simp] theorem State.halt_uartIn (s : State) : (s.halt).uartIn = s.uartIn := rfl
@[simp] theorem State.halt_uartOut (s : State) : (s.halt).uartOut = s.uartOut := rfl
@[simp] theorem State.halt_deviceRefs (s : State) : (s.halt).deviceRefs = s.deviceRefs := rfl
@[simp] theorem State.halt_irqInput (s : State) : (s.halt).irqInput = s.irqInput := rfl
@[simp] theorem State.halt_draws (s : State) : (s.halt).draws = s.draws := rfl
@[simp] theorem State.halt_cfg (s : State) : (s.halt).cfg = s.cfg := rfl

/-! ### boundary -/

@[simp] theorem State.boundary_mode (s : State) : (s.boundary).mode = s.mode := rfl
@[simp] theorem State.boundary_pc (s : State) : (s.boundary).pc = s.pc := rfl
@[simp] theorem State.boundary_ie (s : State) : (s.boundary).ie = s.ie := rfl
@[simp] theorem State.boundary_trap (s : State) : (s.boundary).trap = s.trap := rfl
@[simp] theorem State.boundary_halted (s : State) : (s.boundary).halted = s.halted := rfl
@[simp] theorem State.boundary_banks (s : State) : (s.boundary).banks = s.banks := rfl
@[simp] theorem State.boundary_context (s : State) : (s.boundary).context = s.context := rfl
@[simp] theorem State.boundary_irr (s : State) : (s.boundary).irr = s.irr := rfl
@[simp] theorem State.boundary_icr (s : State) : (s.boundary).icr = s.icr := rfl
@[simp] theorem State.boundary_idr (s : State) : (s.boundary).idr = s.idr := rfl
@[simp] theorem State.boundary_isr (s : State) : (s.boundary).isr = s.isr := rfl
@[simp] theorem State.boundary_cycles (s : State) : (s.boundary).cycles = s.cycles + Config.freeCycles s.draws := rfl
@[simp] theorem State.boundary_mem (s : State) : (s.boundary).mem = s.mem := rfl
@[simp] theorem State.boundary_uartIn (s : State) : (s.boundary).uartIn = s.uartIn := rfl
@[simp] theorem State.boundary_uartOut (s : State) : (s.boundary).uartOut = s.uartOut := rfl
@[simp] theorem State.boundary_deviceRefs (s : State) : (s.boundary).deviceRefs = s.deviceRefs := rfl
@[simp] theorem State.boundary_irqInput (s : State) : (s.boundary).irqInput = s.irqInput.tail := rfl
@[simp] theorem State.boundary_draws (s : State) : (s.boundary).draws = s.draws + 1 := rfl
@[simp] theorem State.boundary_cfg (s : State) : (s.boundary).cfg = s.cfg := rfl

/-! ### setCodeMmu -/

@[simp] theorem State.setCodeMmu_mode (s : State) (c : Nat) (i : Fin 16) (v : Word) : (s.setCodeMmu c i v).mode = s.mode := rfl
@[simp] theorem State.setCodeMmu_pc (s : State) (c : Nat) (i : Fin 16) (v : Word) : (s.setCodeMmu c i v).pc = s.pc := rfl
@[simp] theorem State.setCodeMmu_ie (s : State) (c : Nat) (i : Fin 16) (v : Word) : (s.setCodeMmu c i v).ie = s.ie := rfl
@[simp] theorem State.setCodeMmu_trap (s : State) (c : Nat) (i : Fin 16) (v : Word) : (s.setCodeMmu c i v).trap = s.trap := rfl
@[simp] theorem State.setCodeMmu_halted (s : State) (c : Nat) (i : Fin 16) (v : Word) : (s.setCodeMmu c i v).halted = s.halted := rfl
@[simp] theorem State.setCodeMmu_context (s : State) (c : Nat) (i : Fin 16) (v : Word) : (s.setCodeMmu c i v).context = s.context := rfl
@[simp] theorem State.setCodeMmu_irr (s : State) (c : Nat) (i : Fin 16) (v : Word) : (s.setCodeMmu c i v).irr = s.irr := rfl
@[simp] theorem State.setCodeMmu_icr (s : State) (c : Nat) (i : Fin 16) (v : Word) : (s.setCodeMmu c i v).icr = s.icr := rfl
@[simp] theorem State.setCodeMmu_idr (s : State) (c : Nat) (i : Fin 16) (v : Word) : (s.setCodeMmu c i v).idr = s.idr := rfl
@[simp] theorem State.setCodeMmu_isr (s : State) (c : Nat) (i : Fin 16) (v : Word) : (s.setCodeMmu c i v).isr = s.isr := rfl
@[simp] theorem State.setCodeMmu_cycles (s : State) (c : Nat) (i : Fin 16) (v : Word) : (s.setCodeMmu c i v).cycles = s.cycles := rfl
@[simp] theorem State.setCodeMmu_mem (s : State) (c : Nat) (i : Fin 16) (v : Word) : (s.setCodeMmu c i v).mem = s.mem := rfl
@[simp] theorem State.setCodeMmu_uartIn (s : State) (c : Nat) (i : Fin 16) (v : Word) : (s.setCodeMmu c i v).uartIn = s.uartIn := rfl
@[simp] theorem State.setCodeMmu_uartOut (s : State) (c : Nat) (i : Fin 16) (v : Word) : (s.setCodeMmu c i v).uartOut = s.uartOut := rfl
@[simp] theorem State.setCodeMmu_deviceRefs (s : State) (c : Nat) (i : Fin 16) (v : Word) : (s.setCodeMmu c i v).deviceRefs = s.deviceRefs := rfl
@[simp] theorem State.setCodeMmu_irqInput (s : State) (c : Nat) (i : Fin 16) (v : Word) : (s.setCodeMmu c i v).irqInput = s.irqInput := rfl
@[simp] theorem State.setCodeMmu_draws (s : State) (c : Nat) (i : Fin 16) (v : Word) : (s.setCodeMmu c i v).draws = s.draws := rfl
@[simp] theorem State.setCodeMmu_cfg (s : State) (c : Nat) (i : Fin 16) (v : Word) : (s.setCodeMmu c i v).cfg = s.cfg := rfl

/-! ### setDataMmu -/

@[simp] theorem State.setDataMmu_mode (s : State) (c : Nat) (i : Fin 16) (v : Word) : (s.setDataMmu c i v).mode = s.mode := rfl
@[simp] theorem State.setDataMmu_pc (s : State) (c : Nat) (i : Fin 16) (v : Word) : (s.setDataMmu c i v).pc = s.pc := rfl
@[simp] theorem State.setDataMmu_ie (s : State) (c : Nat) (i : Fin 16) (v : Word) : (s.setDataMmu c i v).ie = s.ie := rfl
@[simp] theorem State.setDataMmu_trap (s : State) (c : Nat) (i : Fin 16) (v : Word) : (s.setDataMmu c i v).trap = s.trap := rfl
@[simp] theorem State.setDataMmu_halted (s : State) (c : Nat) (i : Fin 16) (v : Word) : (s.setDataMmu c i v).halted = s.halted := rfl
@[simp] theorem State.setDataMmu_context (s : State) (c : Nat) (i : Fin 16) (v : Word) : (s.setDataMmu c i v).context = s.context := rfl
@[simp] theorem State.setDataMmu_irr (s : State) (c : Nat) (i : Fin 16) (v : Word) : (s.setDataMmu c i v).irr = s.irr := rfl
@[simp] theorem State.setDataMmu_icr (s : State) (c : Nat) (i : Fin 16) (v : Word) : (s.setDataMmu c i v).icr = s.icr := rfl
@[simp] theorem State.setDataMmu_idr (s : State) (c : Nat) (i : Fin 16) (v : Word) : (s.setDataMmu c i v).idr = s.idr := rfl
@[simp] theorem State.setDataMmu_isr (s : State) (c : Nat) (i : Fin 16) (v : Word) : (s.setDataMmu c i v).isr = s.isr := rfl
@[simp] theorem State.setDataMmu_cycles (s : State) (c : Nat) (i : Fin 16) (v : Word) : (s.setDataMmu c i v).cycles = s.cycles := rfl
@[simp] theorem State.setDataMmu_mem (s : State) (c : Nat) (i : Fin 16) (v : Word) : (s.setDataMmu c i v).mem = s.mem := rfl
@[simp] theorem State.setDataMmu_uartIn (s : State) (c : Nat) (i : Fin 16) (v : Word) : (s.setDataMmu c i v).uartIn = s.uartIn := rfl
@[simp] theorem State.setDataMmu_uartOut (s : State) (c : Nat) (i : Fin 16) (v : Word) : (s.setDataMmu c i v).uartOut = s.uartOut := rfl
@[simp] theorem State.setDataMmu_deviceRefs (s : State) (c : Nat) (i : Fin 16) (v : Word) : (s.setDataMmu c i v).deviceRefs = s.deviceRefs := rfl
@[simp] theorem State.setDataMmu_irqInput (s : State) (c : Nat) (i : Fin 16) (v : Word) : (s.setDataMmu c i v).irqInput = s.irqInput := rfl
@[simp] theorem State.setDataMmu_draws (s : State) (c : Nat) (i : Fin 16) (v : Word) : (s.setDataMmu c i v).draws = s.draws := rfl
@[simp] theorem State.setDataMmu_cfg (s : State) (c : Nat) (i : Fin 16) (v : Word) : (s.setDataMmu c i v).cfg = s.cfg := rfl

/-! ### vectored -/

@[simp] theorem State.vectored_mode (s : State) (k : TrapKind) : (s.vectored k).mode = .kernel := rfl
@[simp] theorem State.vectored_pc (s : State) (k : TrapKind) : (s.vectored k).pc = vectorAddress (k.vector s.cfg.vectors) := rfl
@[simp] theorem State.vectored_ie (s : State) (k : TrapKind) : (s.vectored k).ie = false := rfl
@[simp] theorem State.vectored_trap (s : State) (k : TrapKind) : (s.vectored k).trap = s.trap := rfl
@[simp] theorem State.vectored_halted (s : State) (k : TrapKind) : (s.vectored k).halted = s.halted := rfl
@[simp] theorem State.vectored_banks (s : State) (k : TrapKind) : (s.vectored k).banks = s.banks := rfl
@[simp] theorem State.vectored_context (s : State) (k : TrapKind) : (s.vectored k).context = s.context := rfl
@[simp] theorem State.vectored_irr (s : State) (k : TrapKind) : (s.vectored k).irr = k.returnPc s.pc := rfl
@[simp] theorem State.vectored_icr (s : State) (k : TrapKind) : (s.vectored k).icr = icrEncode k s.mode := rfl
@[simp] theorem State.vectored_idr (s : State) (k : TrapKind) : (s.vectored k).idr = s.idr := rfl
@[simp] theorem State.vectored_isr (s : State) (k : TrapKind) : (s.vectored k).isr = isrEncode s.cfg.isrLayout s.mode := rfl
@[simp] theorem State.vectored_cycles (s : State) (k : TrapKind) : (s.vectored k).cycles = s.cycles := rfl
@[simp] theorem State.vectored_mem (s : State) (k : TrapKind) : (s.vectored k).mem = s.mem := rfl
@[simp] theorem State.vectored_uartIn (s : State) (k : TrapKind) : (s.vectored k).uartIn = s.uartIn := rfl
@[simp] theorem State.vectored_uartOut (s : State) (k : TrapKind) : (s.vectored k).uartOut = s.uartOut := rfl
@[simp] theorem State.vectored_deviceRefs (s : State) (k : TrapKind) : (s.vectored k).deviceRefs = s.deviceRefs := rfl
@[simp] theorem State.vectored_irqInput (s : State) (k : TrapKind) : (s.vectored k).irqInput = s.irqInput := rfl
@[simp] theorem State.vectored_draws (s : State) (k : TrapKind) : (s.vectored k).draws = s.draws := rfl
@[simp] theorem State.vectored_cfg (s : State) (k : TrapKind) : (s.vectored k).cfg = s.cfg := rfl

/-! ### setCarry -/

@[simp] theorem State.setCarry_mode (s : State) (c : Bool) : (s.setCarry c).mode = s.mode := rfl
@[simp] theorem State.setCarry_pc (s : State) (c : Bool) : (s.setCarry c).pc = s.pc := rfl
@[simp] theorem State.setCarry_ie (s : State) (c : Bool) : (s.setCarry c).ie = s.ie := rfl
@[simp] theorem State.setCarry_trap (s : State) (c : Bool) : (s.setCarry c).trap = s.trap := rfl
@[simp] theorem State.setCarry_halted (s : State) (c : Bool) : (s.setCarry c).halted = s.halted := rfl
@[simp] theorem State.setCarry_context (s : State) (c : Bool) : (s.setCarry c).context = s.context := rfl
@[simp] theorem State.setCarry_irr (s : State) (c : Bool) : (s.setCarry c).irr = s.irr := rfl
@[simp] theorem State.setCarry_icr (s : State) (c : Bool) : (s.setCarry c).icr = s.icr := rfl
@[simp] theorem State.setCarry_idr (s : State) (c : Bool) : (s.setCarry c).idr = s.idr := rfl
@[simp] theorem State.setCarry_isr (s : State) (c : Bool) : (s.setCarry c).isr = s.isr := rfl
@[simp] theorem State.setCarry_cycles (s : State) (c : Bool) : (s.setCarry c).cycles = s.cycles := rfl
@[simp] theorem State.setCarry_mem (s : State) (c : Bool) : (s.setCarry c).mem = s.mem := rfl
@[simp] theorem State.setCarry_uartIn (s : State) (c : Bool) : (s.setCarry c).uartIn = s.uartIn := rfl
@[simp] theorem State.setCarry_uartOut (s : State) (c : Bool) : (s.setCarry c).uartOut = s.uartOut := rfl
@[simp] theorem State.setCarry_deviceRefs (s : State) (c : Bool) : (s.setCarry c).deviceRefs = s.deviceRefs := rfl
@[simp] theorem State.setCarry_irqInput (s : State) (c : Bool) : (s.setCarry c).irqInput = s.irqInput := rfl
@[simp] theorem State.setCarry_draws (s : State) (c : Bool) : (s.setCarry c).draws = s.draws := rfl
@[simp] theorem State.setCarry_cfg (s : State) (c : Bool) : (s.setCarry c).cfg = s.cfg := rfl

/-! ### setRegOrLink: a register or LINK -/

@[simp] theorem State.setRegOrLink_mode (s : State) (r : Reg) (v : Word) : (s.setRegOrLink r v).mode = s.mode := by
  unfold State.setRegOrLink; split <;> rfl
@[simp] theorem State.setRegOrLink_pc (s : State) (r : Reg) (v : Word) : (s.setRegOrLink r v).pc = s.pc := by
  unfold State.setRegOrLink; split <;> rfl
@[simp] theorem State.setRegOrLink_ie (s : State) (r : Reg) (v : Word) : (s.setRegOrLink r v).ie = s.ie := by
  unfold State.setRegOrLink; split <;> rfl
@[simp] theorem State.setRegOrLink_trap (s : State) (r : Reg) (v : Word) : (s.setRegOrLink r v).trap = s.trap := by
  unfold State.setRegOrLink; split <;> rfl
@[simp] theorem State.setRegOrLink_halted (s : State) (r : Reg) (v : Word) : (s.setRegOrLink r v).halted = s.halted := by
  unfold State.setRegOrLink; split <;> rfl
@[simp] theorem State.setRegOrLink_context (s : State) (r : Reg) (v : Word) : (s.setRegOrLink r v).context = s.context := by
  unfold State.setRegOrLink; split <;> rfl
@[simp] theorem State.setRegOrLink_irr (s : State) (r : Reg) (v : Word) : (s.setRegOrLink r v).irr = s.irr := by
  unfold State.setRegOrLink; split <;> rfl
@[simp] theorem State.setRegOrLink_icr (s : State) (r : Reg) (v : Word) : (s.setRegOrLink r v).icr = s.icr := by
  unfold State.setRegOrLink; split <;> rfl
@[simp] theorem State.setRegOrLink_idr (s : State) (r : Reg) (v : Word) : (s.setRegOrLink r v).idr = s.idr := by
  unfold State.setRegOrLink; split <;> rfl
@[simp] theorem State.setRegOrLink_isr (s : State) (r : Reg) (v : Word) : (s.setRegOrLink r v).isr = s.isr := by
  unfold State.setRegOrLink; split <;> rfl
@[simp] theorem State.setRegOrLink_cycles (s : State) (r : Reg) (v : Word) : (s.setRegOrLink r v).cycles = s.cycles := by
  unfold State.setRegOrLink; split <;> rfl
@[simp] theorem State.setRegOrLink_mem (s : State) (r : Reg) (v : Word) : (s.setRegOrLink r v).mem = s.mem := by
  unfold State.setRegOrLink; split <;> rfl
@[simp] theorem State.setRegOrLink_uartIn (s : State) (r : Reg) (v : Word) : (s.setRegOrLink r v).uartIn = s.uartIn := by
  unfold State.setRegOrLink; split <;> rfl
@[simp] theorem State.setRegOrLink_uartOut (s : State) (r : Reg) (v : Word) : (s.setRegOrLink r v).uartOut = s.uartOut := by
  unfold State.setRegOrLink; split <;> rfl
@[simp] theorem State.setRegOrLink_deviceRefs (s : State) (r : Reg) (v : Word) : (s.setRegOrLink r v).deviceRefs = s.deviceRefs := by
  unfold State.setRegOrLink; split <;> rfl
@[simp] theorem State.setRegOrLink_irqInput (s : State) (r : Reg) (v : Word) : (s.setRegOrLink r v).irqInput = s.irqInput := by
  unfold State.setRegOrLink; split <;> rfl
@[simp] theorem State.setRegOrLink_draws (s : State) (r : Reg) (v : Word) : (s.setRegOrLink r v).draws = s.draws := by
  unfold State.setRegOrLink; split <;> rfl
@[simp] theorem State.setRegOrLink_cfg (s : State) (r : Reg) (v : Word) : (s.setRegOrLink r v).cfg = s.cfg := by
  unfold State.setRegOrLink; split <;> rfl

/-! ### putResult: a result and its flags -/

@[simp] theorem State.putResult_mode (s : State) (r : Reg) (p : Word × Flags) : (s.putResult r p).mode = s.mode := rfl
@[simp] theorem State.putResult_pc (s : State) (r : Reg) (p : Word × Flags) : (s.putResult r p).pc = s.pc + 2 := rfl
@[simp] theorem State.putResult_ie (s : State) (r : Reg) (p : Word × Flags) : (s.putResult r p).ie = s.ie := rfl
@[simp] theorem State.putResult_trap (s : State) (r : Reg) (p : Word × Flags) : (s.putResult r p).trap = s.trap := rfl
@[simp] theorem State.putResult_halted (s : State) (r : Reg) (p : Word × Flags) : (s.putResult r p).halted = s.halted := rfl
@[simp] theorem State.putResult_context (s : State) (r : Reg) (p : Word × Flags) : (s.putResult r p).context = s.context := rfl
@[simp] theorem State.putResult_irr (s : State) (r : Reg) (p : Word × Flags) : (s.putResult r p).irr = s.irr := rfl
@[simp] theorem State.putResult_icr (s : State) (r : Reg) (p : Word × Flags) : (s.putResult r p).icr = s.icr := rfl
@[simp] theorem State.putResult_idr (s : State) (r : Reg) (p : Word × Flags) : (s.putResult r p).idr = s.idr := rfl
@[simp] theorem State.putResult_isr (s : State) (r : Reg) (p : Word × Flags) : (s.putResult r p).isr = s.isr := rfl
@[simp] theorem State.putResult_cycles (s : State) (r : Reg) (p : Word × Flags) : (s.putResult r p).cycles = s.cycles := rfl
@[simp] theorem State.putResult_mem (s : State) (r : Reg) (p : Word × Flags) : (s.putResult r p).mem = s.mem := rfl
@[simp] theorem State.putResult_uartIn (s : State) (r : Reg) (p : Word × Flags) : (s.putResult r p).uartIn = s.uartIn := rfl
@[simp] theorem State.putResult_uartOut (s : State) (r : Reg) (p : Word × Flags) : (s.putResult r p).uartOut = s.uartOut := rfl
@[simp] theorem State.putResult_deviceRefs (s : State) (r : Reg) (p : Word × Flags) : (s.putResult r p).deviceRefs = s.deviceRefs := rfl
@[simp] theorem State.putResult_irqInput (s : State) (r : Reg) (p : Word × Flags) : (s.putResult r p).irqInput = s.irqInput := rfl
@[simp] theorem State.putResult_draws (s : State) (r : Reg) (p : Word × Flags) : (s.putResult r p).draws = s.draws := rfl
@[simp] theorem State.putResult_cfg (s : State) (r : Reg) (p : Word × Flags) : (s.putResult r p).cfg = s.cfg := rfl

end Sys2Proof.Machine
end

