-- ==== Sys2Proof/Laws/Bank.lean ====
section
/-! SUPPORT. Banks and registers: what is read after a write, in the current bank and in every other (R11..R14). -/

namespace Sys2Proof.Machine

/-! ### Register 0 and the others, in one bank (R13) -/

@[simp] theorem Bank.reg_zero (b : Bank) : b.reg 0 = 0 := by simp [Bank.reg]

@[simp] theorem Bank.setReg_zero (b : Bank) (v : Word) : b.setReg 0 v = b := by simp [Bank.setReg]

theorem regIndex_inj {r q : Reg} (hr : r ≠ 0) (hq : q ≠ 0) (h : regIndex r = regIndex q) : r = q := by
  have h' : r.val - 1 = q.val - 1 := congrArg Fin.val h
  have : r.val ≠ 0 := fun e => hr (Fin.ext e)
  have : q.val ≠ 0 := fun e => hq (Fin.ext e)
  exact Fin.ext (by omega)

theorem Bank.reg_setReg_same (b : Bank) {r : Reg} (v : Word) (h : r ≠ 0) : (b.setReg r v).reg r = v := by
  simp [Bank.reg, Bank.setReg, h, Vector.get_eq_getElem]

theorem Bank.reg_setReg_other (b : Bank) {r q : Reg} (v : Word) (h : q ≠ r) : (b.setReg r v).reg q = b.reg q := by
  unfold Bank.reg Bank.setReg
  split
  · rfl
  · split
    · rfl
    · rename_i hq hr
      have : (regIndex r).val ≠ (regIndex q).val := fun e => h (regIndex_inj hq hr (Fin.ext e).symm)
      simp [Vector.get_eq_getElem, Vector.getElem_set_ne, this]

@[simp] theorem Bank.setReg_link (b : Bank) (r : Reg) (v : Word) : (b.setReg r v).link = b.link := by
  unfold Bank.setReg; split <;> rfl
@[simp] theorem Bank.setReg_flags (b : Bank) (r : Reg) (v : Word) : (b.setReg r v).flags = b.flags := by
  unfold Bank.setReg; split <;> rfl
@[simp] theorem Bank.setReg_cmmu (b : Bank) (r : Reg) (v : Word) : (b.setReg r v).cmmu = b.cmmu := by
  unfold Bank.setReg; split <;> rfl
@[simp] theorem Bank.setReg_dmmu (b : Bank) (r : Reg) (v : Word) : (b.setReg r v).dmmu = b.dmmu := by
  unfold Bank.setReg; split <;> rfl

@[simp] theorem Bank.reg_withLink (b : Bank) (v : Word) (r : Reg) : ({ b with link := v } : Bank).reg r = b.reg r := rfl
@[simp] theorem Bank.reg_withFlags (b : Bank) (f : Flags) (r : Reg) : ({ b with flags := f } : Bank).reg r = b.reg r := rfl

/-! ### Contexts (R11) -/

@[simp] theorem bankGet_nil (c : Nat) : bankGet [] c = Bank.blank := rfl

theorem bankGet_bankPut_same (l : List Bank) (c : Nat) (b : Bank) : bankGet (bankPut l c b) c = b := by
  induction c generalizing l with
  | zero => cases l <;> rfl
  | succ c ih => cases l <;> exact ih _

theorem bankGet_bankPut_other (l : List Bank) {c d : Nat} (b : Bank) (h : d ≠ c) : bankGet (bankPut l c b) d = bankGet l d := by
  induction c generalizing l d with
  | zero =>
    cases d with
    | zero => exact absurd rfl h
    | succ d => cases l <;> rfl
  | succ c ih =>
    cases d with
    | zero => cases l <;> rfl
    | succ d => cases l <;> exact ih _ fun e => h (congrArg _ e)

theorem State.bankAt_setBankAt_same (s : State) {c : Nat} (b : Bank) (h : c < s.cfg.nctx) : (s.setBankAt c b).bankAt c = b := by
  simp only [State.bankAt, State.setBankAt, h, if_true, bankGet_bankPut_same]

theorem State.bankAt_setBankAt_other (s : State) {c d : Nat} (b : Bank) (h : d ≠ c) :
    (s.setBankAt c b).bankAt d = s.bankAt d := by
  unfold State.bankAt State.setBankAt
  split
  · exact bankGet_bankPut_other _ _ h
  · rfl

/-- A context that does not exist cannot be written. -/
theorem State.setBankAt_absent (s : State) {c : Nat} (b : Bank) (h : ¬ c < s.cfg.nctx) : s.setBankAt c b = s := by
  simp [State.setBankAt, h]

/-- The bank numbers of a state whose bank is meaningful exist. -/
theorem State.bankNo_lt {s : State} (h : s.bankOk = true) : s.bankNo < s.cfg.nctx := by
  unfold State.bankOk at h
  unfold State.bankNo
  cases hm : s.mode with
  | kernel => simp [Config.nctx]
  | user => simp_all [State.userContextOk]

/-! ### The current bank after an update that does not touch mode or CONTEXT -/

theorem State.bankNo_congr {s t : State} (hm : t.mode = s.mode) (hc : t.context = s.context) : t.bankNo = s.bankNo := by
  simp [State.bankNo, hm, hc]

theorem State.bankOk_congr {s t : State} (hm : t.mode = s.mode) (hc : t.context = s.context) (hg : t.cfg = s.cfg) :
    t.bankOk = s.bankOk := by
  simp [State.bankOk, State.userContextOk, hm, hc, hg]

theorem State.bankAt_congr {s t : State} (h : t.banks = s.banks) (c : Nat) : t.bankAt c = s.bankAt c := by
  simp [State.bankAt, h]

@[simp] theorem State.setBankAt_bankNo (s : State) (c : Nat) (b : Bank) : (s.setBankAt c b).bankNo = s.bankNo := rfl
@[simp] theorem State.setBank_bankNo (s : State) (b : Bank) : (s.setBank b).bankNo = s.bankNo := rfl
@[simp] theorem State.setReg_bankNo (s : State) (r : Reg) (v : Word) : (s.setReg r v).bankNo = s.bankNo := rfl
@[simp] theorem State.setLink_bankNo (s : State) (v : Word) : (s.setLink v).bankNo = s.bankNo := rfl
@[simp] theorem State.setFlags_bankNo (s : State) (f : Flags) : (s.setFlags f).bankNo = s.bankNo := rfl
@[simp] theorem State.advance_bankNo (s : State) : s.advance.bankNo = s.bankNo := rfl
@[simp] theorem State.jump_bankNo (s : State) (a : Word) : (s.jump a).bankNo = s.bankNo := rfl
@[simp] theorem State.drawn_bankNo (s : State) : s.drawn.bankNo = s.bankNo := rfl
@[simp] theorem State.setByteAt_bankNo (s : State) (pa : PhysAddr) (b : Byte) : (s.setByteAt pa b).bankNo = s.bankNo := rfl
@[simp] theorem State.setRegOrLink_bankNo (s : State) (r : Reg) (v : Word) : (s.setRegOrLink r v).bankNo = s.bankNo := by
  unfold State.setRegOrLink; split <;> rfl

@[simp] theorem State.setReg_bankOk (s : State) (r : Reg) (v : Word) : (s.setReg r v).bankOk = s.bankOk := rfl
@[simp] theorem State.setLink_bankOk (s : State) (v : Word) : (s.setLink v).bankOk = s.bankOk := rfl
@[simp] theorem State.setFlags_bankOk (s : State) (f : Flags) : (s.setFlags f).bankOk = s.bankOk := rfl
@[simp] theorem State.advance_bankOk (s : State) : s.advance.bankOk = s.bankOk := rfl
@[simp] theorem State.jump_bankOk (s : State) (a : Word) : (s.jump a).bankOk = s.bankOk := rfl
@[simp] theorem State.drawn_bankOk (s : State) : s.drawn.bankOk = s.bankOk := rfl
@[simp] theorem State.setByteAt_bankOk (s : State) (pa : PhysAddr) (b : Byte) : (s.setByteAt pa b).bankOk = s.bankOk := rfl
@[simp] theorem State.boundary_bankOk (s : State) : s.boundary.bankOk = s.bankOk := rfl
@[simp] theorem State.setRegOrLink_bankOk (s : State) (r : Reg) (v : Word) : (s.setRegOrLink r v).bankOk = s.bankOk := by
  unfold State.setRegOrLink; split <;> rfl

@[simp] theorem State.advance_bankAt (s : State) (c : Nat) : s.advance.bankAt c = s.bankAt c := rfl
@[simp] theorem State.jump_bankAt (s : State) (a : Word) (c : Nat) : (s.jump a).bankAt c = s.bankAt c := rfl
@[simp] theorem State.drawn_bankAt (s : State) (c : Nat) : s.drawn.bankAt c = s.bankAt c := rfl
@[simp] theorem State.setByteAt_bankAt (s : State) (pa : PhysAddr) (b : Byte) (c : Nat) :
    (s.setByteAt pa b).bankAt c = s.bankAt c := rfl
@[simp] theorem State.setIe_bankAt (s : State) (b : Bool) (c : Nat) : (s.setIe b).bankAt c = s.bankAt c := rfl
@[simp] theorem State.halt_bankAt (s : State) (c : Nat) : s.halt.bankAt c = s.bankAt c := rfl
@[simp] theorem State.boundary_bankAt (s : State) (c : Nat) : s.boundary.bankAt c = s.bankAt c := rfl
@[simp] theorem State.vectored_bankAt (s : State) (k : TrapKind) (c : Nat) : (s.vectored k).bankAt c = s.bankAt c := rfl

@[simp] theorem State.advance_bank (s : State) : s.advance.bank = s.bank := rfl
@[simp] theorem State.jump_bank (s : State) (a : Word) : (s.jump a).bank = s.bank := rfl
@[simp] theorem State.drawn_bank (s : State) : s.drawn.bank = s.bank := rfl
@[simp] theorem State.setByteAt_bank (s : State) (pa : PhysAddr) (b : Byte) : (s.setByteAt pa b).bank = s.bank := rfl
@[simp] theorem State.boundary_bank (s : State) : s.boundary.bank = s.bank := rfl

theorem State.bank_setBank {s : State} (h : s.bankOk = true) (b : Bank) : (s.setBank b).bank = b :=
  s.bankAt_setBankAt_same b (State.bankNo_lt h)

@[simp] theorem State.bankAt_setBank_other (s : State) (b : Bank) {c : Nat} (h : c ≠ s.bankNo) :
    (s.setBank b).bankAt c = s.bankAt c := s.bankAt_setBankAt_other b h

theorem State.bank_setReg {s : State} (h : s.bankOk = true) (r : Reg) (v : Word) :
    (s.setReg r v).bank = s.bank.setReg r v := State.bank_setBank h _

theorem State.bank_setLink {s : State} (h : s.bankOk = true) (v : Word) :
    (s.setLink v).bank = { s.bank with link := v } := State.bank_setBank h _

theorem State.bank_setFlags {s : State} (h : s.bankOk = true) (f : Flags) :
    (s.setFlags f).bank = { s.bank with flags := f } := State.bank_setBank h _

@[simp] theorem State.bankAt_setReg_other (s : State) (r : Reg) (v : Word) {c : Nat} (h : c ≠ s.bankNo) :
    (s.setReg r v).bankAt c = s.bankAt c := s.bankAt_setBankAt_other _ h

@[simp] theorem State.bankAt_setLink_other (s : State) (v : Word) {c : Nat} (h : c ≠ s.bankNo) :
    (s.setLink v).bankAt c = s.bankAt c := s.bankAt_setBankAt_other _ h

@[simp] theorem State.bankAt_setFlags_other (s : State) (f : Flags) {c : Nat} (h : c ≠ s.bankNo) :
    (s.setFlags f).bankAt c = s.bankAt c := s.bankAt_setBankAt_other _ h

@[simp] theorem State.bankAt_setRegOrLink_other (s : State) (r : Reg) (v : Word) {c : Nat} (h : c ≠ s.bankNo) :
    (s.setRegOrLink r v).bankAt c = s.bankAt c := by
  unfold State.setRegOrLink; split <;> exact s.bankAt_setBankAt_other _ h

/-! ### Registers, LINK and flags of the current bank after a write -/

@[simp] theorem State.reg_zero (s : State) : s.reg 0 = 0 := Bank.reg_zero _

theorem State.reg_setReg_same {s : State} (h : s.bankOk = true) {r : Reg} (v : Word) (hr : r ≠ 0) :
    (s.setReg r v).reg r = v := by
  rw [State.reg, State.bank_setReg h, Bank.reg_setReg_same _ _ hr]

theorem State.reg_setReg_other {s : State} (h : s.bankOk = true) {r q : Reg} (v : Word) (hq : q ≠ r) :
    (s.setReg r v).reg q = s.reg q := by
  rw [State.reg, State.bank_setReg h, Bank.reg_setReg_other _ _ hq, State.reg]

theorem State.link_setReg {s : State} (h : s.bankOk = true) (r : Reg) (v : Word) : (s.setReg r v).link = s.link := by
  simp [State.link, State.bank_setReg h]

theorem State.flags_setReg {s : State} (h : s.bankOk = true) (r : Reg) (v : Word) : (s.setReg r v).flags = s.flags := by
  simp [State.flags, State.bank_setReg h]

theorem State.reg_setFlags {s : State} (h : s.bankOk = true) (f : Flags) (r : Reg) : (s.setFlags f).reg r = s.reg r := by
  simp [State.reg, State.bank_setFlags h]

theorem State.link_setFlags {s : State} (h : s.bankOk = true) (f : Flags) : (s.setFlags f).link = s.link := by
  simp [State.link, State.bank_setFlags h]

theorem State.flags_setFlags {s : State} (h : s.bankOk = true) (f : Flags) : (s.setFlags f).flags = f := by
  simp [State.flags, State.bank_setFlags h]

theorem State.reg_setLink {s : State} (h : s.bankOk = true) (v : Word) (r : Reg) : (s.setLink v).reg r = s.reg r := by
  simp [State.reg, State.bank_setLink h]

theorem State.link_setLink {s : State} (h : s.bankOk = true) (v : Word) : (s.setLink v).link = v := by
  simp [State.link, State.bank_setLink h]

theorem State.flags_setLink {s : State} (h : s.bankOk = true) (v : Word) : (s.setLink v).flags = s.flags := by
  simp [State.flags, State.bank_setLink h]

@[simp] theorem State.reg_advance (s : State) (r : Reg) : s.advance.reg r = s.reg r := rfl
@[simp] theorem State.link_advance (s : State) : s.advance.link = s.link := rfl
@[simp] theorem State.flags_advance (s : State) : s.advance.flags = s.flags := rfl
@[simp] theorem State.reg_jump (s : State) (a : Word) (r : Reg) : (s.jump a).reg r = s.reg r := rfl
@[simp] theorem State.link_jump (s : State) (a : Word) : (s.jump a).link = s.link := rfl
@[simp] theorem State.flags_jump (s : State) (a : Word) : (s.jump a).flags = s.flags := rfl
@[simp] theorem State.reg_drawn (s : State) (r : Reg) : s.drawn.reg r = s.reg r := rfl
@[simp] theorem State.link_drawn (s : State) : s.drawn.link = s.link := rfl
@[simp] theorem State.flags_drawn (s : State) : s.drawn.flags = s.flags := rfl
@[simp] theorem State.reg_boundary (s : State) (r : Reg) : s.boundary.reg r = s.reg r := rfl
@[simp] theorem State.setReg_zero_reg (s : State) (v : Word) (r : Reg) (h : s.bankOk = true) :
    (s.setReg 0 v).reg r = s.reg r := by
  rw [State.reg, State.bank_setReg h, Bank.setReg_zero, State.reg]

/-- `xl[r]` after `xl[r] <- v` (R14). -/
theorem State.regOrLink_setRegOrLink {s : State} (h : s.bankOk = true) (r : Reg) (v : Word) :
    (s.setRegOrLink r v).regOrLink r = v := by
  unfold State.regOrLink State.setRegOrLink
  split
  · exact State.link_setLink h v
  · rename_i hr; exact State.reg_setReg_same h v hr

theorem State.reg_setRegOrLink_other {s : State} (h : s.bankOk = true) {r q : Reg} (v : Word) (hq : q ≠ r) :
    (s.setRegOrLink r v).reg q = s.reg q := by
  unfold State.setRegOrLink
  split
  · exact State.reg_setLink h v q
  · exact State.reg_setReg_other h v hq

theorem State.link_setRegOrLink_other {s : State} (h : s.bankOk = true) {r : Reg} (v : Word) (hr : r ≠ 0) :
    (s.setRegOrLink r v).link = s.link := by
  unfold State.setRegOrLink
  simp [hr, State.link_setReg h]

theorem State.flags_setRegOrLink {s : State} (h : s.bankOk = true) (r : Reg) (v : Word) :
    (s.setRegOrLink r v).flags = s.flags := by
  unfold State.setRegOrLink
  split
  · exact State.flags_setLink h v
  · exact State.flags_setReg h r v

/-! ### MMU registers after a write of another part of the bank -/

theorem State.cmmu_setReg {s : State} (h : s.bankOk = true) (r : Reg) (v : Word) : (s.setReg r v).bank.cmmu = s.bank.cmmu := by
  simp [State.bank_setReg h]
theorem State.dmmu_setReg {s : State} (h : s.bankOk = true) (r : Reg) (v : Word) : (s.setReg r v).bank.dmmu = s.bank.dmmu := by
  simp [State.bank_setReg h]
theorem State.cmmu_setLink {s : State} (h : s.bankOk = true) (v : Word) : (s.setLink v).bank.cmmu = s.bank.cmmu := by
  simp [State.bank_setLink h]
theorem State.dmmu_setLink {s : State} (h : s.bankOk = true) (v : Word) : (s.setLink v).bank.dmmu = s.bank.dmmu := by
  simp [State.bank_setLink h]
theorem State.cmmu_setFlags {s : State} (h : s.bankOk = true) (f : Flags) : (s.setFlags f).bank.cmmu = s.bank.cmmu := by
  simp [State.bank_setFlags h]
theorem State.dmmu_setFlags {s : State} (h : s.bankOk = true) (f : Flags) : (s.setFlags f).bank.dmmu = s.bank.dmmu := by
  simp [State.bank_setFlags h]

/-! ### The kernel's and the user's MMU registers through special-register space (R33, R34) -/

theorem State.setCodeMmu_same (s : State) {c : Nat} (i : Fin 16) (v : Word) (h : c < s.cfg.nctx) :
    ((s.setCodeMmu c i v).bankAt c).cmmu.get i = v := by
  simp [State.setCodeMmu, State.bankAt_setBankAt_same _ _ h, Vector.get_eq_getElem]

theorem State.setDataMmu_same (s : State) {c : Nat} (i : Fin 16) (v : Word) (h : c < s.cfg.nctx) :
    ((s.setDataMmu c i v).bankAt c).dmmu.get i = v := by
  simp [State.setDataMmu, State.bankAt_setBankAt_same _ _ h, Vector.get_eq_getElem]

end Sys2Proof.Machine
end

