-- ==== Sys2Proof/Laws/Memory.lean ====
section
/-! SUPPORT. The basic laws of memory: what is read after a write, and that a write keeps the canonical form. -/

namespace Sys2Proof.Machine

/-- A list in canonical form from `lo` on reads as unlisted below `lo`. -/
theorem Memory.read_below (m : Memory) : ∀ {lo a : Nat}, Memory.wfFrom lo m = true → a < lo → Memory.read m a = Memory.unlisted := by
  induction m with
  | nil => intros; rfl
  | cons e rest ih =>
    obtain ⟨k, b⟩ := e
    intro lo a h ha
    simp only [Memory.wfFrom, Bool.and_eq_true, decide_eq_true_eq] at h
    have hk : k ≠ a := by omega
    simp only [Memory.read, hk, if_false]
    exact ih h.2 (by omega)

/-- The canonical form from a bound is one from every lower bound. -/
theorem Memory.wfFrom_mono {lo lo' : Nat} {m : Memory} (h : Memory.wfFrom lo m = true) (hl : lo' ≤ lo) :
    Memory.wfFrom lo' m = true := by
  cases m with
  | nil => rfl
  | cons e rest =>
    simp only [Memory.wfFrom, Bool.and_eq_true, decide_eq_true_eq] at h ⊢
    exact ⟨⟨⟨by omega, h.1.1.2⟩, h.1.2⟩, h.2⟩

theorem Memory.wfFrom_entry {lo a : Nat} {b : Byte} {rest : Memory} (hl : lo ≤ a) (ha : a < 2 ^ 24)
    (hr : Memory.wfFrom (a + 1) rest = true) : Memory.wfFrom lo (Memory.entry a b rest) = true := by
  unfold Memory.entry
  split
  · exact Memory.wfFrom_mono hr (by omega)
  · rename_i hb
    simp only [Memory.wfFrom, Bool.and_eq_true, decide_eq_true_eq]
    exact ⟨⟨⟨hl, ha⟩, hb⟩, hr⟩

/-- A write inside the physical space keeps the canonical form. -/
theorem Memory.wfFrom_write (m : Memory) : ∀ {lo a : Nat} {b : Byte}, Memory.wfFrom lo m = true → lo ≤ a → a < 2 ^ 24 →
    Memory.wfFrom lo (Memory.write m a b) = true := by
  induction m with
  | nil => intro lo a b _ hl ha; exact Memory.wfFrom_entry hl ha rfl
  | cons e rest ih =>
    obtain ⟨k, x⟩ := e
    intro lo a b h hl ha
    have h' := h
    simp only [Memory.wfFrom, Bool.and_eq_true, decide_eq_true_eq] at h
    unfold Memory.write
    split
    · simp only [Memory.wfFrom, Bool.and_eq_true, decide_eq_true_eq]
      exact ⟨h.1, ih h.2 (by omega) ha⟩
    · split
      · rename_i hk; subst hk
        exact Memory.wfFrom_entry hl ha h.2
      · refine Memory.wfFrom_entry hl ha ?_
        simp only [Memory.wfFrom, Bool.and_eq_true, decide_eq_true_eq]
        exact ⟨⟨⟨by omega, h.1.1.2⟩, h.1.2⟩, h.2⟩

theorem Memory.wf_write {m : Memory} {a : Nat} {b : Byte} (h : Memory.wf m = true) (ha : a < 2 ^ 24) :
    Memory.wf (Memory.write m a b) = true := Memory.wfFrom_write m h (Nat.zero_le a) ha

theorem Memory.read_entry_same {a : Nat} {b : Byte} {rest : Memory} (h : Memory.read rest a = Memory.unlisted) :
    Memory.read (Memory.entry a b rest) a = b := by
  unfold Memory.entry
  split
  · rename_i hb; rw [h, hb]
  · simp [Memory.read]

theorem Memory.read_entry_other {a c : Nat} {b : Byte} {rest : Memory} (h : c ≠ a) :
    Memory.read (Memory.entry a b rest) c = Memory.read rest c := by
  unfold Memory.entry
  split
  · rfl
  · simp [Memory.read, Ne.symm h]

/-- In canonical form, reading what was written. -/
theorem Memory.read_write_same_from (m : Memory) : ∀ {lo a : Nat} {b : Byte}, Memory.wfFrom lo m = true →
    Memory.read (Memory.write m a b) a = b := by
  induction m with
  | nil => intro lo a b _; exact Memory.read_entry_same rfl
  | cons e rest ih =>
    obtain ⟨k, x⟩ := e
    intro lo a b h
    have h0 := h
    simp only [Memory.wfFrom, Bool.and_eq_true, decide_eq_true_eq] at h
    unfold Memory.write
    split
    · rename_i hk
      have : k ≠ a := by omega
      simp only [Memory.read, this, if_false]
      exact ih h.2
    · split
      · rename_i hk; subst hk
        exact Memory.read_entry_same (Memory.read_below rest h.2 (by omega))
      · rename_i hk hka
        refine Memory.read_entry_same ?_
        simp only [Memory.read, hka, if_false]
        exact Memory.read_below rest h.2 (by omega)

theorem Memory.read_write_same {m : Memory} (h : Memory.wf m = true) (a : Nat) (b : Byte) :
    Memory.read (Memory.write m a b) a = b := Memory.read_write_same_from m h

/-- A write leaves every other address alone, in canonical form or not. -/
theorem Memory.read_write_other (m : Memory) {a c : Nat} (b : Byte) (h : c ≠ a) :
    Memory.read (Memory.write m a b) c = Memory.read m c := by
  induction m with
  | nil => exact Memory.read_entry_other h
  | cons e rest ih =>
    obtain ⟨k, x⟩ := e
    unfold Memory.write
    split
    · simp only [Memory.read, ih]
    · split
      · rename_i hk; subst hk
        rw [Memory.read_entry_other h]
        simp [Memory.read, Ne.symm h]
      · exact Memory.read_entry_other h

end Sys2Proof.Machine
end

