-- ==== Sys2Proof/Laws/Ops.lean ====
section
/-! SUPPORT. One lemma per shared operation that says once what it can do: translation, the memory primitives, trap entry
and return, the special-register accesses. Proofs cite these instead of unfolding the operation. -/

namespace Sys2Proof.Machine

/-! ### Answers -/

@[simp] theorem Res.bind_ok {α β : Type} (v : α) (s : State) (f : α → State → Res β) : (Res.ok v s).bind f = f v s := rfl
@[simp] theorem Res.bind_raise {α β : Type} (k : TrapKind) (s : State) (f : α → State → Res β) :
    (Res.raise k s).bind f = .raise k s := rfl
@[simp] theorem Res.bind_refuse {α β : Type} (r : Refusal) (f : α → State → Res β) : (Res.refuse r).bind f = .refuse r := rfl
@[simp] theorem Res.run_ok (u : Unit) (s : State) : (Res.ok u s).run = .next s := rfl
@[simp] theorem Res.run_raise (k : TrapKind) (s : State) : (Res.raise k s).run = .next (s.enter k) := rfl
@[simp] theorem Res.run_refuse (r : Refusal) : (Res.refuse r).run = .refused r := rfl
@[simp] theorem Res.intoReg_ok (v : Word) (s : State) (r : Reg) : (Res.ok v s).intoReg r = .ok () (s.setReg r v).advance := rfl
@[simp] theorem Res.intoReg_raise (k : TrapKind) (s : State) (r : Reg) : (Res.raise k s).intoReg r = .raise k s := rfl
@[simp] theorem Res.intoReg_refuse (x : Refusal) (r : Reg) : (Res.refuse x).intoReg r = .refuse x := rfl
@[simp] theorem Res.thenAdvance_ok (u : Unit) (s : State) : (Res.ok u s).thenAdvance = .ok () s.advance := rfl
@[simp] theorem Res.thenAdvance_raise (k : TrapKind) (s : State) : (Res.raise k s).thenAdvance = .raise k s := rfl
@[simp] theorem Res.thenAdvance_refuse (x : Refusal) : (Res.refuse x).thenAdvance = .refuse x := rfl
@[simp] theorem State.checked_ok {α β : Type} (s : State) (a : α) (f : α → Res β) : s.checked (.ok a) f = f a := rfl
@[simp] theorem State.checked_error {α β : Type} (s : State) (k : TrapKind) (f : α → Res β) :
    s.checked (.error k) f = .raise k s := rfl

/-- A bind that answers a value had one in between. -/
theorem Res.bind_eq_ok {α β : Type} {m : Res α} {f : α → State → Res β} {b : β} {t : State} (h : m.bind f = .ok b t) :
    ∃ a u, m = .ok a u ∧ f a u = .ok b t := by
  cases m with
  | ok a u => exact ⟨a, u, rfl, h⟩
  | raise k u => cases h
  | refuse r => cases h

/-- A bind that raises did so in its first or in its second part. -/
theorem Res.bind_eq_raise {α β : Type} {m : Res α} {f : α → State → Res β} {k : TrapKind} {t : State}
    (h : m.bind f = .raise k t) : m = .raise k t ∨ ∃ a u, m = .ok a u ∧ f a u = .raise k t := by
  cases m with
  | ok a u => exact .inr ⟨a, u, rfl, h⟩
  | raise k' u => cases h; exact .inl rfl
  | refuse r => cases h

/-- An answer that runs to a next state is a value's state, or a trap entered. -/
theorem Res.run_eq_next {m : Res Unit} {t : State} (h : m.run = .next t) :
    m = .ok () t ∨ ∃ k s', m = .raise k s' ∧ t = s'.enter k := by
  cases m with
  | ok u s => cases u; cases h; exact .inl rfl
  | raise k s => cases h; exact .inr ⟨k, s, rfl, rfl⟩
  | refuse r => cases h

theorem State.checked_eq_ok {α β : Type} {s : State} {e : Except TrapKind α} {f : α → Res β} {b : β} {t : State}
    (h : s.checked e f = .ok b t) : ∃ a, e = .ok a ∧ f a = .ok b t := by
  cases e with
  | error k => cases h
  | ok a => exact ⟨a, rfl, h⟩

theorem State.checked_eq_raise {α β : Type} {s : State} {e : Except TrapKind α} {f : α → Res β} {k : TrapKind} {t : State}
    (h : s.checked e f = .raise k t) : (e = .error k ∧ t = s) ∨ ∃ a, e = .ok a ∧ f a = .raise k t := by
  cases e with
  | error k' => cases h; exact .inl ⟨rfl, rfl⟩
  | ok a => exact .inr ⟨a, rfl, h⟩

/-! ### Frames -/

theorem State.SameSingletons.refl (s : State) : s.SameSingletons s :=
  ⟨rfl, rfl, rfl, rfl, rfl, rfl, rfl, rfl, rfl, rfl, rfl, rfl, rfl, rfl, rfl⟩

theorem State.SameSingletons.trans {s t u : State} (h : s.SameSingletons t) (h' : t.SameSingletons u) : s.SameSingletons u :=
  ⟨h'.mode.trans h.mode, h'.ie.trans h.ie, h'.trap.trans h.trap, h'.halted.trans h.halted, h'.context.trans h.context,
    h'.irr.trans h.irr, h'.icr.trans h.icr, h'.idr.trans h.idr, h'.isr.trans h.isr, h'.cycles.trans h.cycles,
    h'.uartIn.trans h.uartIn, h'.uartOut.trans h.uartOut, h'.devices.trans h.devices, h'.irqInput.trans h.irqInput, h'.cfg.trans h.cfg⟩

/-- States that differ in the count of draws only are the same in every other respect. -/
theorem State.sameSingletons_draws (s : State) (d : Nat) : s.SameSingletons { s with draws := d } :=
  ⟨rfl, rfl, rfl, rfl, rfl, rfl, rfl, rfl, rfl, rfl, rfl, rfl, rfl, rfl, rfl⟩

/-! ### Translation (R71, R72) -/

theorem State.translate_eq_ok {s : State} {va : Word} {acc : Access} {pa : PhysAddr} (h : s.translate va acc = .ok pa) :
    permissionFaults s.cfg.ppReserved (permissionOf s.cfg.mmuLayout (s.mmuEntry va acc)) acc = false ∧
      pa = frameOf s.cfg.mmuLayout (s.mmuEntry va acc) ++ pageOffset va := by
  unfold State.translate at h
  split at h
  · cases h
  · rename_i hp; exact ⟨by simpa using hp, by cases h; rfl⟩

theorem State.translate_eq_error {s : State} {va : Word} {acc : Access} {k : TrapKind} (h : s.translate va acc = .error k) :
    permissionFaults s.cfg.ppReserved (permissionOf s.cfg.mmuLayout (s.mmuEntry va acc)) acc = true ∧ k = .pageFault va acc := by
  unfold State.translate at h
  split at h
  · rename_i hp; cases h; exact ⟨hp, rfl⟩
  · cases h

/-- Translation reads the mode, CONTEXT, the MMU registers and the parameters, and nothing else. -/
theorem State.translate_congr {s t : State} (hm : t.mode = s.mode) (hc : t.context = s.context) (hb : t.banks = s.banks)
    (hg : t.cfg = s.cfg) (va : Word) (acc : Access) : t.translate va acc = s.translate va acc := by
  have hbank : t.bank = s.bank := by
    simp [State.bank, State.bankAt_congr hb, State.bankNo_congr hm hc]
  have hent : t.mmuEntry va acc = s.mmuEntry va acc := by
    cases acc <;> simp [State.mmuEntry, hbank]
  simp [State.translate, hent, hg]

theorem State.wordPair_even {s : State} {addr : Word} {acc : Access} (h : isEven addr = true) :
    s.wordPair addr acc = s.alignedPair addr acc := by simp [State.wordPair, h]

theorem State.alignedPair_ok {s : State} {addr : Word} {acc : Access} {pa : PhysAddr} (h : s.translate addr acc = .ok pa) :
    s.alignedPair addr acc = .ok (pa, pa + 1) := by simp [State.alignedPair, h]

theorem State.alignedPair_error {s : State} {addr : Word} {acc : Access} {k : TrapKind} (h : s.translate addr acc = .error k) :
    s.alignedPair addr acc = .error k := by simp [State.alignedPair, h]

/-- An aligned word's second byte is not the first (R65). -/
theorem physAddr_succ_ne (pa : PhysAddr) : pa + 1 ≠ pa := by
  intro h
  simp at h

/-! ### Physical references -/

@[simp] theorem State.byteAt_setByteAt_other (s : State) {pa pb : PhysAddr} (b : Byte) (h : pb ≠ pa) :
    (s.setByteAt pa b).byteAt pb = s.byteAt pb :=
  Memory.read_write_other _ _ fun e => h (BitVec.eq_of_toNat_eq e)

theorem State.byteAt_setByteAt_same {s : State} (h : Memory.wf s.mem = true) (pa : PhysAddr) (b : Byte) :
    (s.setByteAt pa b).byteAt pa = b := Memory.read_write_same h _ _

theorem State.wf_setByteAt {s : State} (h : Memory.wf s.mem = true) (pa : PhysAddr) (b : Byte) :
    Memory.wf (s.setByteAt pa b).mem = true := Memory.wf_write h (by have := pa.isLt; simpa using this)

@[simp] theorem State.kindAt_setByteAt (s : State) (pa pb : PhysAddr) (b : Byte) : (s.setByteAt pa b).kindAt pb = s.kindAt pb := rfl

theorem State.kindAt_congr {s t : State} (h : t.cfg = s.cfg) (pa : PhysAddr) : t.kindAt pa = s.kindAt pa := by
  simp [State.kindAt, h]

/-- A byte reference that reads changes nothing but the count of draws and the devices' record. -/
theorem State.readPhys_eq_ok {s t : State} {pa : PhysAddr} {b : Byte} (h : s.readPhys pa = .ok b t) :
    ∃ d r, t = { s with draws := d, deviceRefs := r } := by
  unfold State.readPhys at h
  split at h <;> cases h <;> exact ⟨_, _, rfl⟩

theorem State.readPhys_ne_raise {s t : State} {pa : PhysAddr} {k : TrapKind} : s.readPhys pa ≠ .raise k t := by
  unfold State.readPhys; split <;> simp

/-- A word with a byte that is no device's is no device's word. -/
theorem State.deviceWord_false {s : State} {p : PhysAddr × PhysAddr} (h : s.kindAt p.1 ≠ .device) : s.deviceWord p = false := by
  simp [State.deviceWord, h]

theorem State.IsStorage.ne_device {s : State} {pa : PhysAddr} (h : s.IsStorage pa) : s.kindAt pa ≠ .device := by
  rcases h with h | h <;> rw [h] <;> intro e <;> cases e

theorem State.IsRam.storage {s : State} {pa : PhysAddr} (h : s.IsRam pa) : s.IsStorage pa := .inl h

/-- An aligned word with both bytes a device's is one reference. -/
theorem State.deviceWord_true {s : State} {pa : PhysAddr} (he : pa.getLsbD 0 = false) (h : s.kindAt pa = .device)
    (h' : s.kindAt (pa + 1) = .device) : s.deviceWord (pa, pa + 1) = true := by
  unfold State.deviceWord
  rw [he, h, h', decide_eq_true rfl, decide_eq_true rfl]
  rfl

theorem State.readPhys_ram {s : State} {pa : PhysAddr} (h : s.IsRam pa) : s.readPhys pa = .ok (s.byteAt pa) s := by
  unfold State.IsRam at h; simp [State.readPhys, h]

theorem State.readPair_eq_ok {s t : State} {p : PhysAddr × PhysAddr} {v : Word} (h : s.readPair p = .ok v t) :
    ∃ d r, t = { s with draws := d, deviceRefs := r } := by
  unfold State.readPair at h
  split at h
  · cases h; exact ⟨_, _, rfl⟩
  · obtain ⟨lo, u, h1, h2⟩ := Res.bind_eq_ok h
    obtain ⟨hi, u', h3, h4⟩ := Res.bind_eq_ok h2
    obtain ⟨d, r, rfl⟩ := State.readPhys_eq_ok h1
    obtain ⟨d', r', rfl⟩ := State.readPhys_eq_ok h3
    cases h4
    exact ⟨d', r', rfl⟩

theorem State.readPair_ne_raise {s t : State} {p : PhysAddr × PhysAddr} {k : TrapKind} : s.readPair p ≠ .raise k t := by
  unfold State.readPair
  split
  · intro h; cases h
  · intro h
    rcases Res.bind_eq_raise h with h | ⟨lo, u, _, h⟩
    · exact State.readPhys_ne_raise h
    · rcases Res.bind_eq_raise h with h | ⟨hi, u', _, h⟩
      · exact State.readPhys_ne_raise h
      · cases h

theorem State.writePhys_ram {s : State} {pa : PhysAddr} (h : s.IsRam pa) (b : Byte) : s.writePhys pa b = s.setByteAt pa b := by
  unfold State.IsRam at h; simp [State.writePhys, h]

theorem State.writePair_ram {s : State} {p : PhysAddr × PhysAddr} (h : s.IsRam p.1) (h' : s.IsRam p.2) (v : Word) :
    s.writePair p v = (s.setByteAt p.1 (lowByte v)).setByteAt p.2 (highByte v) := by
  have h2 : (s.setByteAt p.1 (lowByte v)).IsRam p.2 := h'
  simp [State.writePair, State.deviceWord_false h.storage.ne_device, State.writePhys_ram h, State.writePhys_ram h2]

/-- What a byte's reference that writes can do: nothing, the byte stored, or a reference given to a device. -/
theorem State.writePhys_cases (s : State) (pa : PhysAddr) (b : Byte) :
    s.writePhys pa b = s ∨ s.writePhys pa b = s.setByteAt pa b ∨ s.writePhys pa b = s.referred (.writeByte pa b) := by
  unfold State.writePhys
  split
  · exact .inr (.inl rfl)
  · exact .inl rfl
  · exact .inl rfl
  · exact .inr (.inr rfl)

/-- What a store's references can do: memory written, inside the two bytes, devices referred to, and nothing else. -/
structure State.Stores (s t : State) (P : PhysAddr → Prop) : Prop where
  frame : ∃ r, ({ s with deviceRefs := r } : State).OnlyMemory t P
  banks : t.banks = s.banks
  wf    : Memory.wf s.mem = true → Memory.wf t.mem = true

theorem State.writePhys_frame (s : State) (pa : PhysAddr) (b : Byte) : s.Stores (s.writePhys pa b) (fun x => x = pa) := by
  rcases s.writePhys_cases pa b with h | h | h <;> rw [h]
  · exact ⟨⟨s.deviceRefs, .refl _, fun _ => rfl, fun _ _ => rfl⟩, rfl, id⟩
  · exact ⟨⟨s.deviceRefs, ⟨rfl, rfl, rfl, rfl, rfl, rfl, rfl, rfl, rfl, rfl, rfl, rfl, rfl, rfl, rfl⟩, fun _ => rfl,
      fun pb hb => s.byteAt_setByteAt_other b hb⟩, rfl, fun hw => State.wf_setByteAt hw pa b⟩
  · exact ⟨⟨_, .refl _, fun _ => rfl, fun _ _ => rfl⟩, rfl, id⟩

theorem State.writePair_frame (s : State) (p : PhysAddr × PhysAddr) (v : Word) :
    s.Stores (s.writePair p v) (fun x => x = p.1 ∨ x = p.2) := by
  unfold State.writePair
  split
  · exact ⟨⟨_, .refl _, fun _ => rfl, fun _ _ => rfl⟩, rfl, id⟩
  · obtain ⟨⟨r1, f1⟩, b1, w1⟩ := s.writePhys_frame p.1 (lowByte v)
    obtain ⟨⟨r2, f2⟩, b2, w2⟩ := (s.writePhys p.1 (lowByte v)).writePhys_frame p.2 (highByte v)
    refine ⟨⟨r2, ?_, fun c => (f2.banks c).trans (f1.banks c), fun pa hp => ?_⟩, b2.trans b1, fun hw => w2 (w1 hw)⟩
    · have a := f1.singletons
      have c := f2.singletons
      exact ⟨c.mode.trans a.mode, c.ie.trans a.ie, c.trap.trans a.trap, c.halted.trans a.halted, c.context.trans a.context,
        c.irr.trans a.irr, c.icr.trans a.icr, c.idr.trans a.idr, c.isr.trans a.isr, c.cycles.trans a.cycles,
        c.uartIn.trans a.uartIn, c.uartOut.trans a.uartOut, c.devices, c.irqInput.trans a.irqInput, c.cfg.trans a.cfg⟩
    · have hp' := not_or.mp hp
      exact (f2.memory pa hp'.2).trans (f1.memory pa hp'.1)

/-! ### The memory primitives -/

theorem State.readWord_eq_ok {s t : State} {addr : Word} {acc : Access} {v : Word} (h : s.readWord addr acc = .ok v t) :
    ∃ d r, t = { s with draws := d, deviceRefs := r } := by
  obtain ⟨p, _, h2⟩ := State.checked_eq_ok h
  exact State.readPair_eq_ok h2

theorem State.readWord_eq_raise {s t : State} {addr : Word} {acc : Access} {k : TrapKind}
    (h : s.readWord addr acc = .raise k t) : t = s ∧ s.wordPair addr acc = .error k := by
  rcases State.checked_eq_raise h with ⟨h1, h2⟩ | ⟨p, _, h2⟩
  · exact ⟨h2, h1⟩
  · exact absurd h2 State.readPair_ne_raise

theorem State.readByte_eq_ok {s t : State} {addr : Word} {b : Byte} (h : s.readByte addr = .ok b t) :
    ∃ d r, t = { s with draws := d, deviceRefs := r } := by
  obtain ⟨p, _, h2⟩ := State.checked_eq_ok h
  exact State.readPhys_eq_ok h2

theorem State.readByte_eq_raise {s t : State} {addr : Word} {k : TrapKind} (h : s.readByte addr = .raise k t) :
    t = s ∧ s.translate addr .dataRead = .error k := by
  rcases State.checked_eq_raise h with ⟨h1, h2⟩ | ⟨p, _, h2⟩
  · exact ⟨h2, h1⟩
  · exact absurd h2 State.readPhys_ne_raise

/-- FETCH_COHERENCE has the one value that lets a fetch see every store. -/
theorem State.fetch_eq (s : State) : s.fetch = s.checked (s.fetchPair s.pc) s.readPair := rfl

theorem State.fetch_eq_ok {s t : State} {w : Word} (h : s.fetch = .ok w t) :
    ∃ d r, t = { s with draws := d, deviceRefs := r } := by
  rw [State.fetch_eq] at h
  obtain ⟨p, _, h2⟩ := State.checked_eq_ok h
  exact State.readPair_eq_ok h2

theorem State.fetch_eq_raise {s t : State} {k : TrapKind} (h : s.fetch = .raise k t) : t = s ∧ s.fetchPair s.pc = .error k := by
  rw [State.fetch_eq] at h
  rcases State.checked_eq_raise h with ⟨h1, h2⟩ | ⟨p, _, h2⟩
  · exact ⟨h2, h1⟩
  · exact absurd h2 State.readPair_ne_raise

theorem State.writeWord_eq_ok {s t : State} {addr v : Word} {u : Unit} (h : s.writeWord addr v = .ok u t) :
    ∃ p, s.wordPair addr .dataWrite = .ok p ∧ t = s.writePair p v := by
  obtain ⟨p, h1, h2⟩ := State.checked_eq_ok h
  cases h2; exact ⟨p, h1, rfl⟩

theorem State.writeWord_eq_raise {s t : State} {addr v : Word} {k : TrapKind} (h : s.writeWord addr v = .raise k t) :
    t = s ∧ s.wordPair addr .dataWrite = .error k := by
  rcases State.checked_eq_raise h with ⟨h1, h2⟩ | ⟨p, _, h2⟩
  · exact ⟨h2, h1⟩
  · cases h2

theorem State.writeByte_eq_ok {s t : State} {addr : Word} {b : Byte} {u : Unit} (h : s.writeByte addr b = .ok u t) :
    ∃ pa, s.translate addr .dataWrite = .ok pa ∧ t = s.writePhys pa b := by
  obtain ⟨pa, h1, h2⟩ := State.checked_eq_ok h
  cases h2; exact ⟨pa, h1, rfl⟩

theorem State.writeByte_eq_raise {s t : State} {addr : Word} {b : Byte} {k : TrapKind} (h : s.writeByte addr b = .raise k t) :
    t = s ∧ s.translate addr .dataWrite = .error k := by
  rcases State.checked_eq_raise h with ⟨h1, h2⟩ | ⟨p, _, h2⟩
  · exact ⟨h2, h1⟩
  · cases h2

/-- A fetch or a checked word access that traps raises a page fault or a misalignment, both of which record an address. -/
theorem State.wordPair_error_address {s : State} {addr : Word} {acc : Access} {k : TrapKind}
    (h : s.wordPair addr acc = .error k) : (∃ va, k = .pageFault va acc) ∨ k = .misaligned addr acc := by
  have aligned : ∀ a, s.alignedPair a acc = .error k → ∃ va, k = .pageFault va acc := by
    intro a ha
    unfold State.alignedPair at ha
    split at ha
    · cases ha
    · rename_i k' hk; cases ha; exact ⟨a, (State.translate_eq_error hk).2⟩
  unfold State.wordPair at h
  split at h
  · exact .inl (aligned _ h)
  · split at h
    · cases h; exact .inr rfl
    · exact .inl (aligned _ h)
    · unfold State.splitPair at h
      split at h
      · rename_i k' hk; cases h; exact .inl ⟨_, (State.translate_eq_error hk).2⟩
      · split at h
        · rename_i k' hk; cases h; exact .inl ⟨_, (State.translate_eq_error hk).2⟩
        · cases h

/-! ### Taking an exception (R270, R272) -/

theorem swapWords_inj (l : List (Word × Word)) {a b : Word} (h : swapWords l a = swapWords l b) : a = b := by
  induction l generalizing a b with
  | nil => exact h
  | cons p rest ih =>
    obtain ⟨x, y⟩ := p
    have e := ih h
    by_cases ax : a = x <;> by_cases ay : a = y <;> by_cases bx : b = x <;> by_cases bY : b = y <;> simp_all

/-- No two kinds share their sample value of ICR. -/
theorem icrSample_inj {e f : EventKind} (h : icrSample e = icrSample f) : e = f := by
  have hn : e.number = f.number := swapWords_inj _ h
  cases e <;> cases f <;> first | rfl | (exact absurd hn (by decide))

/-- A sample value names its kind. -/
theorem icrNames_sample (e : EventKind) : icrNames (icrSample e) = e := by
  have ne : ∀ {f}, f ≠ e → icrSample e ≠ icrSample f := fun hf h => hf (icrSample_inj h).symm
  cases e <;> simp [icrNames, ne]

/-- What an entry writes to ICR names the entry's kind (D19). -/
theorem icrNames_encode (k : TrapKind) (m : Mode) : icrNames (icrEncode k m) = k.event := by
  unfold icrEncode
  split
  · assumption
  · exact icrNames_sample _

/-- ICR tells events of different kinds apart (R270). -/
theorem icrTellsApart {k k' : TrapKind} (h : k.event ≠ k'.event) : IcrTellsApart k k' := by
  intro m m' e
  have := icrNames_encode k m
  rw [e, icrNames_encode] at this
  exact h this.symm

theorem State.isDoubleFault_false {s : State} (h : s.CanEnter) (k : TrapKind) : s.isDoubleFault k = false := by
  unfold State.isDoubleFault
  rcases h with h | h <;> simp [h]

/-- A vectored entry with a fault address. -/
theorem State.enter_address {s : State} {k : TrapKind} {va : Word} (h : s.isDoubleFault k = false)
    (ha : k.faultAddress = some va) : s.enter k = { s.vectored k with idr := va } := by
  simp [State.enter, h, ha]

/-- A vectored entry without a fault address: IDR is free. -/
theorem State.enter_noAddress {s : State} {k : TrapKind} (h : s.isDoubleFault k = false) (ha : k.faultAddress = none) :
    s.enter k = { (s.vectored k).drawn with idr := s.anyWord } := by
  simp [State.enter, h, ha]

/-- An entry is a double fault, or vectored: then every field but IDR and the draws is as `vectored` says. -/
theorem State.enter_cases (s : State) (k : TrapKind) :
    (s.isDoubleFault k = true ∧ s.enter k = s.doubleFault) ∨
      (s.isDoubleFault k = false ∧ ∃ v d, s.enter k = { s.vectored k with idr := v, draws := d }) := by
  cases h : s.isDoubleFault k with
  | true => exact .inl ⟨rfl, by simp [State.enter, h]⟩
  | false =>
    refine .inr ⟨rfl, ?_⟩
    cases ha : k.faultAddress with
    | some va => exact ⟨va, s.draws, by rw [State.enter_address h ha]; rfl⟩
    | none => exact ⟨s.anyWord, s.draws + 1, by rw [State.enter_noAddress h ha]; rfl⟩

/-- Every entry ends in kernel mode with memory, inputs, streams and parameters as they were. -/
theorem State.enter_mode (s : State) (k : TrapKind) : (s.enter k).mode = .kernel := by
  rcases s.enter_cases k with ⟨h, e⟩ | ⟨_, v, d, e⟩
  · rw [e]
    have hk : s.mode = .kernel := by
      simp only [State.isDoubleFault, Bool.and_eq_true, decide_eq_true_eq] at h
      exact h.1.2
    unfold State.doubleFault
    split
    · exact hk
    · rfl
  · rw [e]; rfl

theorem State.enter_mem (s : State) (k : TrapKind) : (s.enter k).mem = s.mem := by
  rcases s.enter_cases k with ⟨h, e⟩ | ⟨_, v, d, e⟩
  · rw [e]; unfold State.doubleFault; split <;> rfl
  · rw [e]; rfl

theorem State.enter_cfg (s : State) (k : TrapKind) : (s.enter k).cfg = s.cfg := by
  rcases s.enter_cases k with ⟨h, e⟩ | ⟨_, v, d, e⟩
  · rw [e]; unfold State.doubleFault; split <;> rfl
  · rw [e]; rfl

/-! ### Special-register space -/

/-- In user mode only the registers 0..7 are reached (R18, R20). -/
theorem State.sprCheck_user {s : State} {a : Word} {r : Spr} (hm : s.mode = .user) (h : s.sprCheck a = .ok r) :
    r = .link ∨ r = .flags ∨ r = .undefined ∨ r = .cycleLow ∨ r = .cycleHigh := by
  simp only [State.sprCheck, hm] at h
  split at h
  · rename_i ha
    cases h
    have ha' : (BitVec.setWidth 7 a).toNat ≤ 7 := by
      rw [BitVec.toNat_setWidth]
      omega
    generalize BitVec.setWidth 7 a = b at ha' ⊢
    unfold sprAt
    rw [if_pos (by omega)]
    have : b.toNat = 0 ∨ b.toNat = 1 ∨ b.toNat = 2 ∨ b.toNat = 3 ∨ b.toNat = 4 ∨ b.toNat = 5 ∨ b.toNat = 6 ∨ b.toNat = 7 := by
      omega
    rcases this with e | e | e | e | e | e | e | e <;> simp [e, sprLow]
  · cases h

theorem State.sprCheck_error {s : State} {a : Word} {k : TrapKind} (h : s.sprCheck a = .error k) : k = .illegalInstruction := by
  unfold State.sprCheck at h
  split at h
  · split at h
    · cases h
    · cases h; rfl
  · split at h
    · cases h
    · cases hs : s.cfg.sprAddrHigh with
      | mask7 => simp [highAddress, hs, Except.map] at h
      | illegal => simp [highAddress, hs, Except.map] at h; exact h.symm

theorem State.withContext_eq_ok {α : Type} {s t : State} {f : Nat → Res α} {a : α} (h : s.withContext f = .ok a t) :
    s.context.toNat < s.cfg.nctx ∧ f s.context.toNat = .ok a t := by
  unfold State.withContext at h
  split at h
  · rename_i hc; exact ⟨hc, h⟩
  · cases h

theorem State.withContext_eq_raise {α : Type} {s t : State} {f : Nat → Res α} {k : TrapKind}
    (h : s.withContext f = .raise k t) : f s.context.toNat = .raise k t := by
  unfold State.withContext at h
  split at h
  · exact h
  · cases h

/-- IO_OTHER has one value: reads give a free value, writes are ignored. -/
theorem State.ioRead_eq (s : State) (a : BitVec 7) :
    s.ioRead a = if a = s.cfg.uartRx then s.uartReceive else s.readAny := rfl

theorem State.ioWrite_eq (s : State) (a : BitVec 7) (v : Word) :
    s.ioWrite a v = if a = s.cfg.uartTx then { s with uartOut := s.uartOut ++ [lowByte v] } else s := rfl

/-- A special-register read changes nothing but the count of draws and, at the UART, the input left to read. -/
theorem State.sprRead_eq_ok {s t : State} {r : Spr} {v : Word} (h : s.sprRead r = .ok v t) :
    ∃ d u, t = { s with draws := d, uartIn := u } := by
  have any : ∀ {v t}, s.readAny = .ok v t → ∃ d u, t = { s with draws := d, uartIn := u } := by
    intro v t h; cases h; exact ⟨_, _, rfl⟩
  cases r with
  | io a =>
    simp only [State.sprRead, State.ioRead] at h
    split at h
    · unfold State.uartReceive at h
      split at h
      · exact any h
      · cases h; exact ⟨_, _, rfl⟩
    · exact any h
  | undefined => exact any h
  | reserved => exact any h
  | userReg i =>
    simp only [State.sprRead] at h
    obtain ⟨_, h⟩ := State.withContext_eq_ok h
    cases h; exact ⟨_, _, rfl⟩
  | userCode i =>
    simp only [State.sprRead] at h
    obtain ⟨_, h⟩ := State.withContext_eq_ok h
    cases h; exact ⟨_, _, rfl⟩
  | userData i =>
    simp only [State.sprRead] at h
    obtain ⟨_, h⟩ := State.withContext_eq_ok h
    cases h; exact ⟨_, _, rfl⟩
  | _ => cases h; exact ⟨_, _, rfl⟩

theorem State.sprRead_ne_raise {s t : State} {r : Spr} {k : TrapKind} : s.sprRead r ≠ .raise k t := by
  intro h
  cases r with
  | io a =>
    simp only [State.sprRead, State.ioRead] at h
    split at h
    · unfold State.uartReceive at h
      split at h <;> cases h
    · cases h
  | userReg i => simp only [State.sprRead] at h; cases State.withContext_eq_raise h
  | userCode i => simp only [State.sprRead] at h; cases State.withContext_eq_raise h
  | userData i => simp only [State.sprRead] at h; cases State.withContext_eq_raise h
  | _ => cases h

theorem State.sprWrite_ne_raise {s t : State} {r : Spr} {v : Word} {k : TrapKind} : s.sprWrite r v ≠ .raise k t := by
  intro h
  cases r with
  | userReg i => simp only [State.sprWrite] at h; cases State.withContext_eq_raise h
  | userCode i => simp only [State.sprWrite] at h; cases State.withContext_eq_raise h
  | userData i => simp only [State.sprWrite] at h; cases State.withContext_eq_raise h
  | _ => cases h

/-- A special-register write leaves the mode, the pc, the interrupt enable, memory and the parameters. -/
theorem State.sprWrite_frame {s t : State} {r : Spr} {v : Word} {u : Unit} (h : s.sprWrite r v = .ok u t) :
    t.mode = s.mode ∧ t.pc = s.pc ∧ t.ie = s.ie ∧ t.halted = s.halted ∧ t.mem = s.mem ∧ t.cfg = s.cfg ∧ t.cycles = s.cycles ∧
      t.uartIn = s.uartIn ∧ t.irqInput = s.irqInput ∧ t.icr = s.icr ∧ t.idr = s.idr ∧ t.draws = s.draws ∧
      t.deviceRefs = s.deviceRefs := by
  cases r with
  | io a =>
    cases h
    rw [State.ioWrite_eq]
    split <;> exact ⟨rfl, rfl, rfl, rfl, rfl, rfl, rfl, rfl, rfl, rfl, rfl, rfl, rfl⟩
  | flags =>
    cases h
    unfold State.writeFlagsWord
    split <;> exact ⟨rfl, rfl, rfl, rfl, rfl, rfl, rfl, rfl, rfl, rfl, rfl, rfl, rfl⟩
  | userReg i =>
    simp only [State.sprWrite] at h
    obtain ⟨_, h⟩ := State.withContext_eq_ok h
    cases h; exact ⟨rfl, rfl, rfl, rfl, rfl, rfl, rfl, rfl, rfl, rfl, rfl, rfl, rfl⟩
  | userCode i =>
    simp only [State.sprWrite] at h
    obtain ⟨_, h⟩ := State.withContext_eq_ok h
    cases h; exact ⟨rfl, rfl, rfl, rfl, rfl, rfl, rfl, rfl, rfl, rfl, rfl, rfl, rfl⟩
  | userData i =>
    simp only [State.sprWrite] at h
    obtain ⟨_, h⟩ := State.withContext_eq_ok h
    cases h; exact ⟨rfl, rfl, rfl, rfl, rfl, rfl, rfl, rfl, rfl, rfl, rfl, rfl, rfl⟩
  | _ => cases h; exact ⟨rfl, rfl, rfl, rfl, rfl, rfl, rfl, rfl, rfl, rfl, rfl, rfl, rfl⟩

/-- In user mode a special-register write changes LINK and flags of the current bank and nothing else (R18, R22, R23). -/
theorem State.sprWrite_user {s t : State} {a : Word} {r : Spr} {v : Word} {u : Unit} (hm : s.mode = .user)
    (hr : s.sprCheck a = .ok r) (h : s.sprWrite r v = .ok u t) :
    t = s ∨ t = s.setLink v ∨ t = s.setFlags (flagsOfWord v) := by
  rcases State.sprCheck_user hm hr with rfl | rfl | rfl | rfl | rfl
  · cases h; exact .inr (.inl rfl)
  · cases h
    refine .inr (.inr ?_)
    unfold State.writeFlagsWord
    rw [hm]
  · cases h; exact .inl rfl
  · cases h; exact .inl rfl
  · cases h; exact .inl rfl

/-- The read that a faulting SSI may have made changes nothing but the draws and the UART's input. -/
theorem State.maybeDiscardedRead_eq (s : State) (r : Spr) :
    ∃ d u, s.maybeDiscardedRead r = { s with draws := d, uartIn := u } := by
  unfold State.maybeDiscardedRead
  split
  · split
    · rename_i v t h
      obtain ⟨d, u, rfl⟩ := State.sprRead_eq_ok h
      exact ⟨d, u, rfl⟩
    · exact ⟨_, _, rfl⟩
    · exact ⟨_, _, rfl⟩
  · exact ⟨_, _, rfl⟩

end Sys2Proof.Machine
end

