-- ==== Sys2Proof/Laws/Alu.lean ====
section
/-! SUPPORT. What the shared operations of the ALU can do: the adder in arithmetic (R6), and the frame of an instruction
that writes a register and flags. -/

namespace Sys2Proof.Machine

/-! ### The adder (R6) -/

theorem toInt_lt_zero_iff_msb (r : Word) : r.toInt < 0 ↔ r.msb = true := by
  rw [BitVec.toInt_eq_msb_cond]; have := r.isLt; split <;> simp_all

theorem addC_result (a b : Word) (c : Bool) : (addC a b c).1 = a + b + BitVec.ofNat 16 c.toNat := by
  apply BitVec.eq_of_toNat_eq; simp [addC]

theorem addC_z (a b : Word) (c : Bool) : ((addC a b c).2.z = true ↔ (addC a b c).1 = 0) := by simp [addC]

theorem addC_n (a b : Word) (c : Bool) : ((addC a b c).2.n = true ↔ (addC a b c).1.toInt < 0) := by
  rw [toInt_lt_zero_iff_msb]; simp [addC]

theorem addC_c (a b : Word) (c : Bool) : ((addC a b c).2.c = true ↔ 65536 ≤ a.toNat + b.toNat + c.toNat) := by simp [addC]

/-- V is the signed overflow of the sum. -/
theorem addC_v (a b : Word) (c : Bool) :
    ((addC a b c).2.v = true ↔ ¬(-32768 ≤ a.toInt + b.toInt + c.toNat ∧ a.toInt + b.toInt + c.toNat < 32768)) := by
  have ha := a.isLt
  have hb := b.isLt
  have hc : c.toNat ≤ 1 := by cases c <;> simp
  simp only [addC, BitVec.toInt_eq_msb_cond, BitVec.msb_eq_decide, BitVec.toNat_ofNat]
  by_cases h1 : 2 ^ (16 - 1) ≤ a.toNat <;> by_cases h2 : 2 ^ (16 - 1) ≤ b.toNat <;>
    by_cases h3 : 2 ^ (16 - 1) ≤ (a.toNat + b.toNat + c.toNat) % 2 ^ 16 <;> simp [h1, h2, h3] <;> omega

theorem toNat_not (b : Word) : (~~~b).toNat = 65535 - b.toNat := by simp [BitVec.toNat_not]

theorem toInt_not (b : Word) : (~~~b).toInt = -1 - b.toInt := by
  have hb := b.isLt
  simp only [BitVec.toInt_eq_msb_cond, BitVec.msb_eq_decide, toNat_not]
  by_cases h : 2 ^ (16 - 1) ≤ b.toNat
  · have h' : ¬ 2 ^ (16 - 1) ≤ 65535 - b.toNat := by omega
    simp [h, h']; omega
  · have h' : 2 ^ (16 - 1) ≤ 65535 - b.toNat := by omega
    simp [h, h']; omega

/-- Adding the complement subtracts, with the borrow in the complement of the carry. -/
theorem subtractBorrow_result (a b : Word) (c : Bool) :
    (subtractBorrow a b c).1 = a - b - BitVec.ofNat 16 (1 - c.toNat) := by
  apply BitVec.eq_of_toNat_eq
  have := a.isLt; have := b.isLt
  cases c <;> simp [subtractBorrow, addC, BitVec.toNat_sub] <;> omega

theorem subtract_result (a b : Word) : (subtract a b).1 = a - b := by
  simpa [subtract, subtractBorrow] using subtractBorrow_result a b true

theorem subtractBorrow_c (a b : Word) (c : Bool) :
    ((subtractBorrow a b c).2.c = true ↔ b.toNat + (1 - c.toNat) ≤ a.toNat) := by
  have := a.isLt; have := b.isLt
  unfold subtractBorrow
  rw [addC_c, toNat_not]
  cases c <;> simp <;> omega

theorem subtractBorrow_v (a b : Word) (c : Bool) :
    ((subtractBorrow a b c).2.v = true ↔
      ¬(-32768 ≤ a.toInt - b.toInt - (1 - c.toNat) ∧ a.toInt - b.toInt - (1 - c.toNat) < 32768)) := by
  unfold subtractBorrow
  rw [addC_v, toInt_not]
  constructor <;> intro h h' <;> apply h <;> omega

/-- After a subtraction N equals V exactly when the minuend is at least the subtrahend, both signed. -/
theorem subtract_signed (a b : Word) : ((subtract a b).2.n = (subtract a b).2.v ↔ b.toInt ≤ a.toInt) := by
  have hn := addC_n a (~~~b) true
  have hv := subtractBorrow_v a b true
  have hr : (addC a (~~~b) true).1 = a - b := subtract_result a b
  have ha := BitVec.toInt_lt (x := a)
  have ha' := BitVec.le_toInt (x := a)
  have hb := BitVec.toInt_lt (x := b)
  have hb' := BitVec.le_toInt (x := b)
  rw [hr, BitVec.toInt_sub, Int.bmod] at hn
  unfold subtract
  unfold subtractBorrow at hv
  cases hN : (addC a (~~~b) true).2.n <;> cases hV : (addC a (~~~b) true).2.v <;>
    simp [hN, hV] at hn hv ⊢ <;> split at hn <;> omega

/-! ### Writing a register and the flags of the current bank -/

/-- An update of the current bank that keeps its MMU registers changes no other context, no special register and no
memory. -/
theorem State.setBank_onlyBank (s : State) (b : Bank) : s.OnlyBank (s.setBank b) s.bankNo :=
  ⟨⟨rfl, rfl, rfl, rfl, rfl, rfl, rfl, rfl, rfl, rfl, rfl, rfl, rfl, rfl, rfl⟩,
    fun _ h => s.bankAt_setBankAt_other b h, fun _ => rfl⟩

/-- A result and its flags (R167): the register, the flags, the next instruction, nothing else. -/
theorem State.putResult_computed {s : State} (h : s.bankOk = true) (rA : Reg) (p : Word × Flags) :
    s.Computed (s.putResult rA p) rA p.1 ∧ (s.putResult rA p).flags = p.2 := by
  have h' : (s.setReg rA p.1).bankOk = true := h
  refine ⟨⟨rfl, fun hr => ?_, ⟨rfl, rfl, rfl, rfl, rfl, rfl, rfl, rfl, rfl, rfl, rfl, rfl, rfl, rfl, rfl⟩, fun d hd => ?_,
    fun _ => rfl, ⟨?_, ?_⟩, fun q hq => ?_, ?_⟩, ?_⟩
  · simp [State.putResult, State.reg_setFlags h', State.reg_setReg_same h _ hr]
  · have e : (s.setReg rA p.1).bankNo = s.bankNo := rfl
    simp only [State.putResult, State.advance_bankAt]
    rw [State.bankAt_setFlags_other _ _ (by rw [e]; exact hd), State.bankAt_setReg_other _ _ _ hd]
  · simp [State.putResult, State.cmmu_setFlags h', State.cmmu_setReg h]
  · simp [State.putResult, State.dmmu_setFlags h', State.dmmu_setReg h]
  · simp [State.putResult, State.reg_setFlags h', State.reg_setReg_other h _ hq]
  · simp [State.putResult, State.link_setFlags h', State.link_setReg h]
  · simp [State.putResult, State.flags_setFlags h']

/-- The draws are no part of a frame's starting state. -/
theorem State.Computed.of_draws {s t : State} {d : Nat} {rA : Reg} {v : Word}
    (h : ({ s with draws := d } : State).Computed t rA v) : s.Computed t rA v :=
  ⟨h.pc, h.value, ⟨h.frame.singletons.mode, h.frame.singletons.ie, h.frame.singletons.trap, h.frame.singletons.halted,
    h.frame.singletons.context, h.frame.singletons.irr, h.frame.singletons.icr, h.frame.singletons.idr,
    h.frame.singletons.isr, h.frame.singletons.cycles, h.frame.singletons.uartIn, h.frame.singletons.uartOut,
    h.frame.singletons.devices, h.frame.singletons.irqInput, h.frame.singletons.cfg⟩, h.frame.otherBanks, h.frame.memory, h.frame.mmu,
    h.frame.regs, h.frame.link⟩

theorem State.Loaded.of_draws {s t : State} {d : Nat} {rA : Reg} {v : Word}
    (h : ({ s with draws := d } : State).Loaded t rA v) : s.Loaded t rA v := ⟨h.computed.of_draws, h.flags⟩

/-- A load's write: the register and the next instruction, nothing else. -/
theorem State.setReg_loaded {s : State} (h : s.bankOk = true) (rA : Reg) (v : Word) :
    s.Loaded (s.setReg rA v).advance rA v := by
  refine ⟨⟨rfl, fun hr => ?_, ⟨rfl, rfl, rfl, rfl, rfl, rfl, rfl, rfl, rfl, rfl, rfl, rfl, rfl, rfl, rfl⟩, fun d hd => ?_,
    fun _ => rfl, ⟨?_, ?_⟩, fun q hq => ?_, ?_⟩, ?_⟩
  · simp [State.reg_setReg_same h _ hr]
  · simp only [State.advance_bankAt]; exact State.bankAt_setReg_other _ _ _ hd
  · simp [State.cmmu_setReg h]
  · simp [State.dmmu_setReg h]
  · simp [State.reg_setReg_other h _ hq]
  · simp [State.link_setReg h]
  · simp [State.flags_setReg h]

/-- A write of a register or LINK, and a new pc: nothing else (R14). -/
theorem State.setRegOrLink_computed {s : State} (h : s.bankOk = true) (rA : Reg) (v a : Word) :
    s.ComputedOrLink ((s.setRegOrLink rA v).jump a) rA v ∧ ((s.setRegOrLink rA v).jump a).flags = s.flags := by
  refine ⟨⟨?_, ?_⟩, by simp [State.flags_setRegOrLink h]⟩
  · exact State.regOrLink_setRegOrLink h rA v
  · unfold State.setRegOrLink
    by_cases hr : rA = 0
    · simp only [hr, if_true]
      refine ⟨⟨rfl, rfl, rfl, rfl, rfl, rfl, rfl, rfl, rfl, rfl, rfl, rfl, rfl, rfl, rfl⟩, fun d hd => ?_, fun _ => rfl, ⟨?_, ?_⟩,
        fun q _ => ?_, fun hn => absurd rfl hn⟩
      · rw [State.jump_bankAt]; exact State.bankAt_setLink_other _ _ hd
      · rw [State.jump_bank, State.cmmu_setLink h]
      · rw [State.jump_bank, State.dmmu_setLink h]
      · rw [State.reg_jump, State.reg_setLink h]
    · simp only [hr, if_false]
      refine ⟨⟨rfl, rfl, rfl, rfl, rfl, rfl, rfl, rfl, rfl, rfl, rfl, rfl, rfl, rfl, rfl⟩, fun d hd => ?_, fun _ => rfl, ⟨?_, ?_⟩,
        fun q hq => ?_, fun _ => ?_⟩
      · rw [State.jump_bankAt]; exact State.bankAt_setReg_other _ _ _ hd
      · rw [State.jump_bank, State.cmmu_setReg h]
      · rw [State.jump_bank, State.dmmu_setReg h]
      · rw [State.reg_jump, State.reg_setReg_other h _ hq]
      · rw [State.link_jump, State.link_setReg h]

/-- Flags written after a register or LINK, which is ADI's case. -/
theorem State.ComputedOrLink.withFlags {s t : State} {rA : Reg} {v : Word} (h : s.ComputedOrLink t rA v)
    (ht : t.bankOk = true) (f : Flags) : s.ComputedOrLink (t.setFlags f) rA v ∧ (t.setFlags f).flags = f := by
  have hn : t.bankNo = s.bankNo := State.bankNo_congr h.frame.singletons.mode h.frame.singletons.context
  refine ⟨⟨?_, h.frame.singletons.trans ⟨rfl, rfl, rfl, rfl, rfl, rfl, rfl, rfl, rfl, rfl, rfl, rfl, rfl, rfl, rfl⟩,
    fun d hd => ?_, h.frame.memory, ⟨?_, ?_⟩, fun q hq => ?_, fun hr => ?_⟩, State.flags_setFlags ht f⟩
  · have hv := h.value
    unfold State.regOrLink at hv ⊢
    rw [State.link_setFlags ht, State.reg_setFlags ht]; exact hv
  · rw [State.bankAt_setFlags_other _ _ (by rw [hn]; exact hd)]; exact h.frame.otherBanks d hd
  · rw [State.cmmu_setFlags ht]; exact h.frame.mmu.1
  · rw [State.dmmu_setFlags ht]; exact h.frame.mmu.2
  · rw [State.reg_setFlags ht]; exact h.frame.regs q hq
  · rw [State.link_setFlags ht]; exact h.frame.link hr

end Sys2Proof.Machine
end

