-- ==== Sys2Proof/Laws/Access.lean ====
section
/-! SUPPORT. Accesses that reach storage, and accesses that fault: what the memory primitives answer, in the terms of
Safety.lean. -/

namespace Sys2Proof.Machine

theorem sext7_eq (imm : BitVec 7) : sext7 imm = BitVec.ofInt 16 imm.toInt := by
  apply BitVec.eq_of_toInt_eq
  have h1 := BitVec.toInt_lt (x := imm)
  have h2 := BitVec.le_toInt (x := imm)
  rw [sext7, BitVec.toInt_signExtend_of_le (by decide), BitVec.toInt_ofInt, Int.bmod]
  simp only [Nat.reducePow] at *
  split <;> omega

theorem sext10_eq (imm : BitVec 10) : sext10 imm = BitVec.ofInt 16 imm.toInt := by
  apply BitVec.eq_of_toInt_eq
  have h1 := BitVec.toInt_lt (x := imm)
  have h2 := BitVec.le_toInt (x := imm)
  rw [sext10, BitVec.toInt_signExtend_of_le (by decide), BitVec.toInt_ofInt, Int.bmod]
  simp only [Nat.reducePow] at *
  split <;> omega

theorem State.effectiveAddress_eq (s : State) (rB : Reg) (imm : BitVec 7) :
    s.effectiveAddress rB imm = s.reg rB + BitVec.ofInt 16 imm.toInt := by
  rw [State.effectiveAddress, sext7_eq]

theorem isEven_of {a : Word} (h : a.getLsbD 0 = false) : isEven a = true := by unfold isEven; rw [h]; rfl

theorem isEven_of_odd {a : Word} (h : a.getLsbD 0 = true) : isEven a = false := by unfold isEven; rw [h]; rfl

theorem toNat_mod_two (a : Word) : a.toNat % 2 = if a.getLsbD 0 then 1 else 0 := by
  simp only [BitVec.getLsbD, Nat.testBit_zero]
  split <;> simp_all

/-- Clearing bit 0 of an odd address takes one off. -/
theorem clearBit0_odd {a : Word} (h : a.getLsbD 0 = true) : clearBit0 a = a - 1 := by
  have h1 : a.toNat % 2 = 1 := by rw [toNat_mod_two, h]; rfl
  have h2 := a.isLt
  apply BitVec.eq_of_toNat_eq
  have h3 : (clearBit0 a).toNat = a.toNat / 2 * 2 := by
    unfold clearBit0
    rw [BitVec.toNat_and, show (0xFFFE : Word).toNat = 2 ^ 16 - 1 - 1 by decide]
    apply Nat.eq_of_testBit_eq
    intro i
    rw [Nat.testBit_and, show a.toNat / 2 * 2 = 2 ^ 1 * (a.toNat / 2) by omega, Nat.testBit_two_pow_mul]
    cases i with
    | zero => simp
    | succ n =>
      rw [show a.toNat / 2 = a.toNat / 2 ^ 1 by rfl, Nat.testBit_div_two_pow, show n + 1 - 1 + 1 = n + 1 by omega,
        Nat.sub_sub, Nat.testBit_two_pow_sub_succ (by decide)]
      by_cases hn : n + 1 < 16
      · simp [hn, Nat.testBit_succ]
      · rw [Nat.testBit_lt_two_pow (Nat.lt_of_lt_of_le h2 (Nat.pow_le_pow_right (by decide) (by omega)))]
        simp
  rw [h3, BitVec.toNat_sub]
  simp
  omega

theorem State.readPhys_storage {s : State} {pa : PhysAddr} (h : s.IsStorage pa) : s.readPhys pa = .ok (s.byteAt pa) s := by
  unfold State.readPhys; rcases h with h | h <;> rw [h]

theorem State.readPair_storage {s : State} {lo hi : PhysAddr} (h : s.IsStorage lo) (h' : s.IsStorage hi) :
    s.readPair (lo, hi) = .ok (s.byteAt hi ++ s.byteAt lo) s := by
  simp [State.readPair, State.deviceWord_false (p := (lo, hi)) h.ne_device, State.readPhys_storage h, State.readPhys_storage h', joinBytes]

theorem State.readWord_storage {s : State} {va : Word} {acc : Access} {pa : PhysAddr} (h : s.WordReaches va acc pa) :
    s.readWord va acc = .ok (s.wordAt pa) s := by
  simp only [State.readWord, State.wordPair_even (isEven_of h.even), State.alignedPair_ok h.reach, State.checked_ok]
  exact State.readPair_storage h.low h.high

theorem State.fetch_storage {s : State} {pa : PhysAddr} (h : s.WordReaches s.pc .fetch pa) :
    s.fetch = .ok (s.wordAt pa) s := by
  simp only [State.fetch_eq, State.fetchPair, isEven_of h.even, if_true, State.alignedPair_ok h.reach, State.checked_ok]
  exact State.readPair_storage h.low h.high

/-- An even virtual address has an even physical one: bits 11:0 pass through. -/
theorem State.translate_even {s : State} {va : Word} {acc : Access} {pa : PhysAddr} (h : s.translate va acc = .ok pa)
    (he : va.getLsbD 0 = false) : pa.getLsbD 0 = false := by
  rw [(State.translate_eq_ok h).2]
  refine (BitVec.getLsbD_append (x := frameOf s.cfg.mmuLayout (s.mmuEntry va acc)) (y := pageOffset va)).trans ?_
  simpa [pageOffset] using he

/-! ### Devices (R296) -/

theorem State.readPhys_device {s : State} {pa : PhysAddr} (h : s.kindAt pa = .device) :
    s.readPhys pa = .ok (Config.freeByte s.draws) (s.drawn.referred (.readByte pa (Config.freeByte s.draws))) := by
  simp [State.readPhys, h]

theorem State.writePhys_device {s : State} {pa : PhysAddr} (h : s.kindAt pa = .device) (b : Byte) :
    s.writePhys pa b = s.referred (.writeByte pa b) := by
  simp [State.writePhys, h]

theorem State.readPair_device {s : State} {pa : PhysAddr} (he : pa.getLsbD 0 = false) (h : s.kindAt pa = .device)
    (h' : s.kindAt (pa + 1) = .device) :
    s.readPair (pa, pa + 1) = .ok s.anyWord (s.drawn.referred (.readWord pa s.anyWord)) := by
  simp only [State.readPair, State.deviceWord_true he h h', if_true]

theorem State.writePair_device {s : State} {pa : PhysAddr} (he : pa.getLsbD 0 = false) (h : s.kindAt pa = .device)
    (h' : s.kindAt (pa + 1) = .device) (v : Word) : s.writePair (pa, pa + 1) v = s.referred (.writeWord pa v) := by
  simp only [State.writePair, State.deviceWord_true he h h', if_true]

/-! ### Stores -/

/-- What a word store to RAM leaves. -/
theorem State.storedWord {s : State} {lo hi : PhysAddr} (hw : Memory.wf s.mem = true) (hne : hi ≠ lo) (v : Word) :
    s.StoredWord ((s.setByteAt lo (lowByte v)).setByteAt hi (highByte v)).advance lo hi v := by
  have hw' := State.wf_setByteAt hw lo (lowByte v)
  refine ⟨rfl, ?_, ?_, ⟨rfl, rfl, rfl, rfl, rfl, rfl, rfl, rfl, rfl, rfl, rfl, rfl, rfl, rfl, rfl⟩, fun _ => rfl, fun pa hp => ?_⟩
  · show ((s.setByteAt lo (lowByte v)).setByteAt hi (highByte v)).byteAt lo = _
    rw [State.byteAt_setByteAt_other _ _ (Ne.symm hne), State.byteAt_setByteAt_same hw]; rfl
  · show ((s.setByteAt lo (lowByte v)).setByteAt hi (highByte v)).byteAt hi = _
    rw [State.byteAt_setByteAt_same hw']; rfl
  · have hp' := not_or.mp hp
    show ((s.setByteAt lo (lowByte v)).setByteAt hi (highByte v)).byteAt pa = _
    rw [State.byteAt_setByteAt_other _ _ hp'.2, State.byteAt_setByteAt_other _ _ hp'.1]

theorem State.writeWord_stores {s : State} {va : Word} {pa : PhysAddr} (h : s.WordStores va pa) (v : Word) :
    s.writeWord va v = .ok () ((s.setByteAt pa (lowByte v)).setByteAt (pa + 1) (highByte v)) := by
  simp only [State.writeWord, State.wordPair_even (isEven_of h.even), State.alignedPair_ok h.reach, State.checked_ok]
  exact congrArg (Res.ok ()) (State.writePair_ram h.low h.high v)

theorem State.translate_invalid {s : State} {va : Word} {acc : Access} (h : s.InvalidPage va acc) :
    s.translate va acc = .error (.pageFault va acc) := by
  unfold State.InvalidPage at h
  simp [State.translate, permissionFaults, h]

theorem State.translate_readOnly {s : State} {va : Word} (h : s.ReadOnlyPage va) :
    s.translate va .dataWrite = .error (.pageFault va .dataWrite) := by
  unfold State.ReadOnlyPage at h
  simp [State.translate, permissionFaults, h]

theorem State.wordPair_fault {s : State} {va : Word} {acc : Access} (he : va.getLsbD 0 = false)
    (h : s.translate va acc = .error (.pageFault va acc)) : s.wordPair va acc = .error (.pageFault va acc) := by
  rw [State.wordPair_even (isEven_of he), State.alignedPair_error h]

/-- An address in reach in either mode, or in kernel mode (R20). -/
theorem State.sprCheck_low {s : State} {a : Word} (h : a.toNat ≤ 7 ∨ s.mode = .kernel ∧ a.toNat ≤ 127) :
    s.sprCheck a = .ok (sprAt (a.setWidth 7)) := by
  unfold State.sprCheck
  cases hm : s.mode with
  | user =>
    rcases h with h | ⟨h, _⟩
    · simp [h]
    · rw [hm] at h; cases h
  | kernel =>
    have : a.toNat ≤ 127 := by rcases h with h | ⟨_, h⟩ <;> omega
    simp [this]

theorem State.sprCheck_illegal {s : State} {a : Word} (hm : s.mode = .user) (h : 7 < a.toNat) :
    s.sprCheck a = .error .illegalInstruction := by
  have : ¬ a.toNat ≤ 7 := by omega
  simp [State.sprCheck, hm, this]

/-- The map at a small address, by the address as a number. -/
theorem sprAt_setWidth {a : Word} {n : Nat} (h : a.toNat = n) :
    sprAt (a.setWidth 7) = sprAt (BitVec.ofNat 7 n) := by
  congr 1; apply BitVec.eq_of_toNat_eq; simp [h]

/-! ### The flags word (R23) -/

theorem flagBits_lsb (f : Flags) : (flagBits f).getLsbD 0 = f.c ∧ (flagBits f).getLsbD 1 = f.z ∧
    (flagBits f).getLsbD 2 = f.n ∧ (flagBits f).getLsbD 3 = f.v := by
  obtain ⟨c, z, n, v⟩ := f
  cases c <;> cases z <;> cases n <;> cases v <;> decide

theorem userFlagsWord_lsb (f : Flags) (free : Word) {k : Nat} (h : k < 4) :
    (userFlagsWord f free).getLsbD k = (flagBits f).getLsbD k :=
  (BitVec.getLsbD_append (x := free.extractLsb' 4 12) (y := flagBits f)).trans (by simp [h])

theorem kernelFlagsWord_lsb (f : Flags) (t ie : Bool) (free : Word) :
    (∀ k, k < 4 → (kernelFlagsWord f t ie free).getLsbD k = (flagBits f).getLsbD k) ∧
      (kernelFlagsWord f t ie free).getLsbD 8 = t ∧ (kernelFlagsWord f t ie free).getLsbD 9 = ie := by
  have low : ∀ k, (kernelFlagsWord f t ie free).getLsbD k = if k < 4 then (flagBits f).getLsbD k else
      (free.extractLsb' 10 6 ++ BitVec.ofBool ie ++ BitVec.ofBool t ++ free.extractLsb' 4 4).getLsbD (k - 4) := fun k =>
    BitVec.getLsbD_append (x := free.extractLsb' 10 6 ++ BitVec.ofBool ie ++ BitVec.ofBool t ++ free.extractLsb' 4 4)
      (y := flagBits f)
  refine ⟨fun k h => by rw [low, if_pos h], ?_, ?_⟩
  · rw [low, if_neg (by decide)]
    rw [BitVec.getLsbD_append, BitVec.getLsbD_append]
    cases t <;> rfl
  · rw [low, if_neg (by decide)]
    rw [BitVec.getLsbD_append, BitVec.getLsbD_append, BitVec.getLsbD_append]
    cases ie <;> rfl

theorem State.bankOk_kernel {s : State} (h : s.mode = .kernel) : s.bankOk = true := by simp [State.bankOk, h]

end Sys2Proof.Machine
end

