-- ==== Sys2Proof/Laws/Encode.lean ====
section
/-! SUPPORT. The formats as numbers and under their masks: what each format's word is, and what a bit field reads
(R101, R102). -/

namespace Sys2Proof

/-- Concatenation as a number. -/
theorem toNat_concat {m n : Nat} (x : BitVec m) (y : BitVec n) : (x ++ y).toNat = x.toNat * 2 ^ n + y.toNat := by
  rw [BitVec.toNat_append, Nat.shiftLeft_eq, Nat.mul_comm, Nat.two_pow_add_eq_or_of_lt y.isLt]

/-- A bit field as a number. -/
theorem bitField_toNat (w : Word) (lo len : Nat) : (bitField w lo len).toNat = w.toNat / 2 ^ lo % 2 ^ len := by
  simp [bitField, BitVec.extractLsb'_toNat, Nat.shiftRight_eq_div_pow]

@[simp] theorem regBits_toNat (r : Reg) : (regBits r).toNat = r.val := Nat.mod_eq_of_lt r.isLt

/-- A register field as a number. -/
theorem regField_val (w : Word) (lo : Nat) : (regField w lo).val = w.toNat / 2 ^ lo % 8 := bitField_toNat w lo 3

theorem formatM_toNat (op : BitVec 3) (imm7 : BitVec 7) (rB rA : Reg) :
    (formatM op imm7 rB rA).toNat = op.toNat * 8192 + imm7.toNat * 64 + rB.val * 8 + rA.val := by
  refine (toNat_concat (op ++ imm7 ++ regBits rB) (regBits rA)).trans ?_
  simp only [toNat_concat, regBits_toNat]; omega

theorem formatU_toNat (op : BitVec 3) (imm10 : BitVec 10) (low : BitVec 3) :
    (formatU op imm10 low).toNat = op.toNat * 8192 + imm10.toNat * 8 + low.toNat := by
  refine (toNat_concat (op ++ imm10) low).trans ?_
  simp only [toNat_concat]; omega

theorem formatJ_toNat (imm6 : BitVec 6) (rB rA : Reg) :
    (formatJ imm6 rB rA).toNat = 57344 + imm6.toNat * 64 + rB.val * 8 + rA.val := by
  refine (toNat_concat (0xE#4 ++ imm6 ++ regBits rB) (regBits rA)).trans ?_
  simp only [toNat_concat, regBits_toNat, BitVec.toNat_ofNat]; omega

theorem formatX_toNat (x : BitVec 3) (rC rB rA : Reg) :
    (formatX x rC rB rA).toNat = 61440 + x.toNat * 512 + rC.val * 64 + rB.val * 8 + rA.val := by
  refine (toNat_concat (0xF#4 ++ x ++ regBits rC ++ regBits rB) (regBits rA)).trans ?_
  simp only [toNat_concat, regBits_toNat, BitVec.toNat_ofNat]; omega

theorem formatY_toNat (y : BitVec 3) (rB rA : Reg) :
    (formatY y rB rA).toNat = 65024 + y.toNat * 64 + rB.val * 8 + rA.val := by
  refine (toNat_concat (0x7F#7 ++ y ++ regBits rB) (regBits rA)).trans ?_
  simp only [toNat_concat, regBits_toNat, BitVec.toNat_ofNat]; omega

theorem formatZ_toNat (z : BitVec 3) (rA : Reg) : (formatZ z rA).toNat = 65472 + z.toNat * 8 + rA.val := by
  refine (toNat_concat (0x3FF#10 ++ z) (regBits rA)).trans ?_
  simp only [toNat_concat, regBits_toNat, BitVec.toNat_ofNat]; omega

theorem formatV_toNat (v : BitVec 3) : (formatV v).toNat = 65528 + v.toNat := by
  refine (toNat_concat 0x1FFF#13 v).trans ?_
  simp only [BitVec.toNat_ofNat]; omega

/-! ### Each format under the mask of its rows (R105) -/

theorem and_ones3 (x : BitVec 3) : x &&& 0b111#3 = x := BitVec.and_allOnes

theorem formatM_masked (op : BitVec 3) (imm7 : BitVec 7) (rB rA : Reg) :
    formatM op imm7 rB rA &&& 0xE000 = formatM op 0 0 0 := by
  rw [show (0xE000 : Word) = (0b111#3 ++ 0#7 ++ 0#3 ++ 0#3 : BitVec (3 + 7 + 3 + 3)) by decide]
  show (op ++ imm7 ++ regBits rB ++ regBits rA : BitVec (3 + 7 + 3 + 3)) &&& _ = _
  simp only [BitVec.and_append, and_ones3]
  simp [formatM, regBits]

theorem formatU_masked (op : BitVec 3) (imm10 : BitVec 10) (low : BitVec 3) :
    formatU op imm10 low &&& 0xE000 = formatU op 0 0 := by
  rw [show (0xE000 : Word) = (0b111#3 ++ 0#10 ++ 0#3 : BitVec (3 + 10 + 3)) by decide]
  show (op ++ imm10 ++ low : BitVec (3 + 10 + 3)) &&& _ = _
  simp only [BitVec.and_append, and_ones3]
  simp [formatU]

theorem formatU_masked_low (op : BitVec 3) (imm10 : BitVec 10) (low : BitVec 3) :
    formatU op imm10 low &&& 0xE007 = formatU op 0 low := by
  rw [show (0xE007 : Word) = (0b111#3 ++ 0#10 ++ 0b111#3 : BitVec (3 + 10 + 3)) by decide]
  show (op ++ imm10 ++ low : BitVec (3 + 10 + 3)) &&& _ = _
  simp only [BitVec.and_append, and_ones3]
  simp [formatU]

theorem formatJ_masked (imm6 : BitVec 6) (rB rA : Reg) : formatJ imm6 rB rA &&& 0xF000 = 0xE000 := by
  rw [show (0xF000 : Word) = (0xF#4 ++ 0#6 ++ 0#3 ++ 0#3 : BitVec (4 + 6 + 3 + 3)) by decide]
  show (0xE#4 ++ imm6 ++ regBits rB ++ regBits rA : BitVec (4 + 6 + 3 + 3)) &&& _ = _
  simp only [BitVec.and_append]
  simp

theorem formatX_masked (x : BitVec 3) (rC rB rA : Reg) : formatX x rC rB rA &&& 0xFE00 = formatX x 0 0 0 := by
  rw [show (0xFE00 : Word) = (0xF#4 ++ 0b111#3 ++ 0#3 ++ 0#3 ++ 0#3 : BitVec (4 + 3 + 3 + 3 + 3)) by decide]
  show (0xF#4 ++ x ++ regBits rC ++ regBits rB ++ regBits rA : BitVec (4 + 3 + 3 + 3 + 3)) &&& _ = _
  simp only [BitVec.and_append, and_ones3]
  simp [formatX, regBits]

theorem formatY_masked (y : BitVec 3) (rB rA : Reg) : formatY y rB rA &&& 0xFFC0 = formatY y 0 0 := by
  rw [show (0xFFC0 : Word) = (0x7F#7 ++ 0b111#3 ++ 0#3 ++ 0#3 : BitVec (7 + 3 + 3 + 3)) by decide]
  show (0x7F#7 ++ y ++ regBits rB ++ regBits rA : BitVec (7 + 3 + 3 + 3)) &&& _ = _
  simp only [BitVec.and_append, and_ones3]
  simp [formatY, regBits]

theorem formatZ_masked (z : BitVec 3) (rA : Reg) : formatZ z rA &&& 0xFFF8 = formatZ z 0 := by
  rw [show (0xFFF8 : Word) = (0x3FF#10 ++ 0b111#3 ++ 0#3 : BitVec (10 + 3 + 3)) by decide]
  show (0x3FF#10 ++ z ++ regBits rA : BitVec (10 + 3 + 3)) &&& _ = _
  simp only [BitVec.and_append, and_ones3]
  simp [formatZ, regBits]

end Sys2Proof
end

