-- ==== Sys2Proof/Laws/Exec.lean ====
section
/-! SUPPORT. What any instruction can do: it ends as an ordinary instruction, whose limits are said once here, or a trap
is entered from it, or it is RTI. -/

namespace Sys2Proof.Machine

/-- What every instruction that completes, but RTI, keeps of the state `s` it runs in. -/
structure State.Ordinary (s t : State) : Prop where
  mode     : t.mode = s.mode
  cfg      : t.cfg = s.cfg
  irqInput : t.irqInput = s.irqInput
  memory   : Memory.wf s.mem = true → Memory.wf t.mem = true
  stores   : ∀ pa, t.byteAt pa ≠ s.byteAt pa → ∃ va, s.translate va .dataWrite = .ok pa
  banks    : s.mode = .user → s.SameBanksBut t s.context.toNat
  cmmu     : s.mode = .user → (t.bankAt s.context.toNat).cmmu = (s.bankAt s.context.toNat).cmmu
  dmmu     : s.mode = .user → (t.bankAt s.context.toNat).dmmu = (s.bankAt s.context.toNat).dmmu
  context  : s.mode = .user → t.context = s.context
  trap     : s.mode = .user → t.trap = s.trap
  uartIn   : s.mode = .user → t.uartIn = s.uartIn
  uartOut  : s.mode = .user → t.uartOut = s.uartOut
  saved    : s.mode = .user → t.ie = s.ie ∧ t.irr = s.irr ∧ t.icr = s.icr ∧ t.idr = s.idr ∧ t.isr = s.isr

/-- The ways an instruction `i` run in state `s` can end in a next state `t`. -/
inductive State.Ends (i : Instr) (s t : State) : Prop
  | ordinary : s.Ordinary t → State.Ends i s t
  | trap (k : TrapKind) (d : Nat) (u : List Byte) : k ≠ .interrupt → (s.mode = .user → u = s.uartIn) →
      t = ({ s with draws := d, uartIn := u } : State).enter k → State.Ends i s t
  | rti : i = .rti → s.mode = .kernel → s.returnFromTrap = .ok () t → State.Ends i s t

theorem State.Ordinary.refl (s : State) : s.Ordinary s where
  mode := rfl
  cfg := rfl
  irqInput := rfl
  memory := id
  stores := fun _ h => absurd rfl h
  banks := fun _ _ _ => rfl
  cmmu := fun _ => rfl
  dmmu := fun _ => rfl
  context := fun _ => rfl
  trap := fun _ => rfl
  uartIn := fun _ => rfl
  uartOut := fun _ => rfl
  saved := fun _ => ⟨rfl, rfl, rfl, rfl, rfl⟩

/-- The pc, the halted bit and the count of draws are outside `Ordinary`. -/
theorem State.Ordinary.mk_pc {s t : State} (h : s.Ordinary t) (a : Word) (b : Bool) (d : Nat) :
    s.Ordinary { t with pc := a, halted := b, draws := d } :=
  ⟨h.mode, h.cfg, h.irqInput, h.memory, h.stores, h.banks, h.cmmu, h.dmmu, h.context, h.trap, h.uartIn, h.uartOut, h.saved⟩

theorem State.Ordinary.advance {s t : State} (h : s.Ordinary t) : s.Ordinary t.advance :=
  ⟨h.mode, h.cfg, h.irqInput, h.memory, h.stores, h.banks, h.cmmu, h.dmmu, h.context, h.trap, h.uartIn, h.uartOut, h.saved⟩

theorem State.Ordinary.jump {s t : State} (h : s.Ordinary t) (a : Word) : s.Ordinary (t.jump a) :=
  ⟨h.mode, h.cfg, h.irqInput, h.memory, h.stores, h.banks, h.cmmu, h.dmmu, h.context, h.trap, h.uartIn, h.uartOut, h.saved⟩

/-- The draws and the devices' record of the starting state are outside `Ordinary` too. -/
theorem State.Ordinary.of_reads {s t : State} {d : Nat} {r : List DeviceRef}
    (h : ({ s with draws := d, deviceRefs := r } : State).Ordinary t) : s.Ordinary t :=
  ⟨h.mode, h.cfg, h.irqInput, h.memory, h.stores, h.banks, h.cmmu, h.dmmu, h.context, h.trap, h.uartIn, h.uartOut, h.saved⟩

/-- A write of the current bank that keeps its MMU registers. -/
theorem State.Ordinary.setBank {s t : State} (h : s.Ordinary t) (hc : t.context = s.context) {b : Bank}
    (h1 : b.cmmu = t.bank.cmmu) (h2 : b.dmmu = t.bank.dmmu) : s.Ordinary (t.setBank b) := by
  have hn : s.mode = .user → t.bankNo = s.context.toNat := by
    intro hm; simp [State.bankNo, h.mode, hm, hc]
  have same : ∀ (f : Bank → Vector Word 16), f b = f t.bank → ∀ c, f ((t.setBank b).bankAt c) = f (t.bankAt c) := by
    intro f hf c
    by_cases e : c = t.bankNo
    · subst e
      by_cases hlt : t.bankNo < t.cfg.nctx
      · rw [State.setBank, State.bankAt_setBankAt_same _ _ hlt, hf]; rfl
      · rw [State.setBank, State.setBankAt_absent _ _ hlt]
    · rw [State.bankAt_setBank_other _ _ e]
  exact ⟨h.mode, h.cfg, h.irqInput, h.memory, h.stores,
    fun hm d hd => (State.bankAt_setBank_other t b (by rw [hn hm]; exact hd)).trans (h.banks hm d hd),
    fun hm => (same (fun b => b.cmmu) h1 _).trans (h.cmmu hm), fun hm => (same (fun b => b.dmmu) h2 _).trans (h.dmmu hm),
    h.context, h.trap, h.uartIn, h.uartOut, h.saved⟩

theorem State.Ordinary.setReg (s : State) (r : Reg) (v : Word) : s.Ordinary (s.setReg r v) :=
  (State.Ordinary.refl s).setBank rfl (by simp) (by simp)

theorem State.Ordinary.setLink (s : State) (v : Word) : s.Ordinary (s.setLink v) :=
  (State.Ordinary.refl s).setBank rfl rfl rfl

theorem State.Ordinary.setFlags (s : State) (f : Flags) : s.Ordinary (s.setFlags f) :=
  (State.Ordinary.refl s).setBank rfl rfl rfl

theorem State.Ordinary.setRegOrLink (s : State) (r : Reg) (v : Word) : s.Ordinary (s.setRegOrLink r v) := by
  unfold State.setRegOrLink
  split
  · exact State.Ordinary.setLink s v
  · exact State.Ordinary.setReg s r v

theorem State.Ordinary.thenFlags {s t : State} (h : s.Ordinary t) (hc : t.context = s.context) (f : Flags) :
    s.Ordinary (t.setFlags f) := h.setBank hc rfl rfl

theorem State.Ordinary.putResult (s : State) (r : Reg) (p : Word × Flags) : s.Ordinary (s.putResult r p) :=
  ((State.Ordinary.setReg s r p.1).thenFlags rfl p.2).advance

theorem State.Ordinary.putResult_drawn (s : State) (r : Reg) (p : Word × Flags) : s.Ordinary (s.drawn.putResult r p) :=
  State.Ordinary.of_reads (State.Ordinary.putResult s.drawn r p)

theorem State.Ordinary.branch (s : State) (c : Fin 8) (imm : BitVec 10) : s.Ordinary (s.branch c imm) := by
  unfold State.branch
  split
  · exact (State.Ordinary.refl s).jump _
  · exact (State.Ordinary.refl s).advance

/-- In kernel mode only mode, parameters, inputs and memory are limited. -/
theorem State.Ordinary.ofKernel {s t : State} (hk : s.mode = .kernel) (mode : t.mode = s.mode) (cfg : t.cfg = s.cfg)
    (irq : t.irqInput = s.irqInput) (mem : t.mem = s.mem) : s.Ordinary t := by
  have no : s.mode = .user → False := by rw [hk]; intro h; cases h
  exact ⟨mode, cfg, irq, fun h => by rw [mem]; exact h, fun pa h => absurd (by simp [State.byteAt, mem]) h,
    fun h => (no h).elim, fun h => (no h).elim, fun h => (no h).elim, fun h => (no h).elim, fun h => (no h).elim,
    fun h => (no h).elim, fun h => (no h).elim, fun h => (no h).elim⟩

/-! ### The stores of an instruction stay inside pages it may write -/

theorem pageOf_succ {a : Word} (h : a.getLsbD 0 = false) : pageOf (a + 1) = pageOf a := by
  have h2 := a.isLt
  have h1 : a.toNat % 2 = 0 := by rw [toNat_mod_two, h]; rfl
  apply Fin.ext
  simp only [pageOf, BitVec.extractLsb'_toNat, Nat.shiftRight_eq_div_pow, BitVec.toNat_add]
  simp
  omega

theorem pageOffset_succ {a : Word} (h : a.getLsbD 0 = false) :
    (pageOffset (a + 1)).toNat = (pageOffset a).toNat + 1 := by
  have h2 := a.isLt
  have h1 : a.toNat % 2 = 0 := by rw [toNat_mod_two, h]; rfl
  simp only [pageOffset, BitVec.extractLsb'_toNat, Nat.shiftRight_eq_div_pow, BitVec.toNat_add]
  simp
  omega

/-- The second byte of an aligned word is where its own address translates to (R65: an aligned word never crosses a
page). -/
theorem State.translate_succ {s : State} {a : Word} {acc : Access} {pa : PhysAddr} (he : a.getLsbD 0 = false)
    (h : s.translate a acc = .ok pa) : s.translate (a + 1) acc = .ok (pa + 1) := by
  have hent : s.mmuEntry (a + 1) acc = s.mmuEntry a acc := by cases acc <;> simp only [State.mmuEntry, pageOf_succ he]
  unfold State.translate at h ⊢
  rw [hent]
  split at h
  · cases h
  · rename_i hp
    cases h
    rw [if_neg hp]
    congr 1
    have h0 := (pageOffset a).isLt
    have h1 := pageOffset_succ he
    have h2 := (pageOffset (a + 1)).isLt
    apply BitVec.eq_of_toNat_eq
    rw [BitVec.toNat_add]
    have cat : ∀ (x y : BitVec 12), (x ++ y : PhysAddr).toNat = 2 ^ 12 * x.toNat + y.toNat := by
      intro x y
      rw [BitVec.toNat_append, Nat.shiftLeft_eq, Nat.mul_comm, Nat.two_pow_add_eq_or_of_lt y.isLt]
    rw [cat, cat, h1]
    have := (frameOf s.cfg.mmuLayout (s.mmuEntry a acc)).isLt
    have one : (1 : PhysAddr).toNat = 1 := rfl
    rw [one, Nat.mod_eq_of_lt (by omega)]
    omega

theorem getLsbD_clearBit0 (a : Word) : (clearBit0 a).getLsbD 0 = false := by
  simp [clearBit0]

theorem of_isEven {a : Word} (h : isEven a = true) : a.getLsbD 0 = false := by
  simpa [isEven] using h

/-- Both bytes of a word access that is allowed are where some virtual addresses translate to. -/
theorem State.wordPair_ok {s : State} {addr : Word} {acc : Access} {p : PhysAddr × PhysAddr}
    (h : s.wordPair addr acc = .ok p) : (∃ va, s.translate va acc = .ok p.1) ∧ ∃ va, s.translate va acc = .ok p.2 := by
  have aligned : ∀ a, a.getLsbD 0 = false → s.alignedPair a acc = .ok p →
      (∃ va, s.translate va acc = .ok p.1) ∧ ∃ va, s.translate va acc = .ok p.2 := by
    intro a ha hp
    unfold State.alignedPair at hp
    split at hp
    · rename_i pa hpa; cases hp; exact ⟨⟨a, hpa⟩, ⟨a + 1, State.translate_succ ha hpa⟩⟩
    · cases hp
  unfold State.wordPair at h
  split at h
  · rename_i he; exact aligned _ (of_isEven he) h
  · split at h
    · cases h
    · exact aligned _ (getLsbD_clearBit0 _) h
    · unfold State.splitPair at h
      split at h
      · cases h
      · split at h
        · cases h
        · rename_i h1 _ _ h2; cases h; exact ⟨⟨_, h1⟩, ⟨_, h2⟩⟩

theorem State.Ordinary.ofStore {s t : State} {P : PhysAddr → Prop} (h : s.Stores t P)
    (hp : ∀ pa, P pa → ∃ va, s.translate va .dataWrite = .ok pa) : s.Ordinary t := by
  obtain ⟨⟨r, f⟩, _, w⟩ := h
  refine ⟨f.singletons.mode, f.singletons.cfg, f.singletons.irqInput, w, fun pa hne => ?_, fun _ d _ => f.banks d,
    fun _ => congrArg Bank.cmmu (f.banks _), fun _ => congrArg Bank.dmmu (f.banks _), fun _ => f.singletons.context,
    fun _ => f.singletons.trap, fun _ => f.singletons.uartIn, fun _ => f.singletons.uartOut,
    fun _ => ⟨f.singletons.ie, f.singletons.irr, f.singletons.icr, f.singletons.idr, f.singletons.isr⟩⟩
  by_cases hP : P pa
  · exact hp pa hP
  · exact absurd (f.memory pa hP) hne

theorem State.Ordinary.ofWritePair {s : State} {p : PhysAddr × PhysAddr} {addr v : Word}
    (hp : s.wordPair addr .dataWrite = .ok p) : s.Ordinary (s.writePair p v) := by
  obtain ⟨h1, h2⟩ := State.wordPair_ok hp
  exact State.Ordinary.ofStore (s.writePair_frame p v) fun pa e => e.elim (fun e => e ▸ h1) (fun e => e ▸ h2)

/-- The translations of a state do not see the UART or the draws. -/
theorem State.wordPair_congr {s t : State} (hm : t.mode = s.mode) (hc : t.context = s.context) (hb : t.banks = s.banks)
    (hg : t.cfg = s.cfg) (addr : Word) (acc : Access) : t.wordPair addr acc = s.wordPair addr acc := by
  simp [State.wordPair, State.alignedPair, State.splitPair, State.translate_congr hm hc hb hg, hg]

/-! ### Every instruction -/

/-- An operation that ends in a value's state that is ordinary, or in a trap with nothing done, ends so when run. -/
theorem State.Ends.ofRun {i : Instr} {s t : State} {m : Res Unit} (h : m.run = .next t)
    (hok : ∀ u, m = .ok () u → s.Ordinary u)
    (hr : ∀ k u, m = .raise k u → k ≠ .interrupt ∧ ∃ d w, u = { s with draws := d, uartIn := w } ∧
      (s.mode = .user → w = s.uartIn)) : State.Ends i s t := by
  rcases Res.run_eq_next h with h | ⟨k, u, h1, rfl⟩
  · exact .ordinary (hok _ h)
  · obtain ⟨hk, d, w, rfl, hw⟩ := hr k u h1
    exact .trap k d w hk hw rfl

theorem State.Ends.ofLoad {i : Instr} {s t : State} {m : Res Word} {r : Reg} (h : (m.intoReg r).run = .next t)
    (hok : ∀ v u, m = .ok v u → (∃ d r, u = { s with draws := d, deviceRefs := r }) ∨
      s.mode = .kernel ∧ ∃ d w, u = { s with draws := d, uartIn := w })
    (hr : ∀ k u, m = .raise k u → k ≠ .interrupt ∧ u = s) : State.Ends i s t := by
  refine State.Ends.ofRun h (fun u hu => ?_) (fun k u hu => ?_)
  · obtain ⟨v, w, h1, h2⟩ := Res.bind_eq_ok hu
    cases h2
    rcases hok v w h1 with ⟨d, q, rfl⟩ | ⟨hm, d, x, rfl⟩
    · exact State.Ordinary.of_reads (State.Ordinary.setReg _ r v).advance
    · exact State.Ordinary.ofKernel hm rfl rfl rfl rfl
  · rcases Res.bind_eq_raise hu with h1 | ⟨v, w, h1, h2⟩
    · obtain ⟨hk, rfl⟩ := hr k u h1
      exact ⟨hk, u.draws, u.uartIn, rfl, fun _ => rfl⟩
    · cases h2

theorem pageFault_ne_interrupt {s : State} {va : Word} {acc : Access} {k : TrapKind}
    (h : s.translate va acc = .error k) : k ≠ .interrupt := by
  rw [(State.translate_eq_error h).2]; intro e; cases e

theorem wordPair_ne_interrupt {s : State} {va : Word} {acc : Access} {k : TrapKind}
    (h : s.wordPair va acc = .error k) : k ≠ .interrupt := by
  rcases State.wordPair_error_address h with ⟨_, rfl⟩ | rfl <;> (intro e; cases e)

theorem State.mode_cases (s : State) : s.mode = .kernel ∨ s.mode = .user := by cases s.mode <;> simp

/-- A read of a special register the mode may reach: the UART's input changes in kernel mode only. -/
theorem State.sprRead_reach {s t : State} {a : Word} {r : Spr} {v : Word} (hc : s.sprCheck a = .ok r)
    (h : s.sprRead r = .ok v t) :
    (∃ d, t = { s with draws := d }) ∨ s.mode = .kernel ∧ ∃ d w, t = { s with draws := d, uartIn := w } := by
  rcases s.mode_cases with hm | hm
  · obtain ⟨d, u, e⟩ := State.sprRead_eq_ok h
    exact .inr ⟨hm, d, u, e⟩
  · left
    rcases State.sprCheck_user hm hc with rfl | rfl | rfl | rfl | rfl <;> cases h <;> exact ⟨_, rfl⟩

theorem State.sprWrite_reach {s t : State} {a : Word} {r : Spr} {v : Word} {u : Unit} (hc : s.sprCheck a = .ok r)
    (h : s.sprWrite r v = .ok u t) : s.Ordinary t := by
  rcases s.mode_cases with hm | hm
  · have f := State.sprWrite_frame h
    exact State.Ordinary.ofKernel hm f.1 f.2.2.2.2.2.1 f.2.2.2.2.2.2.2.2.1 f.2.2.2.2.1
  · rcases State.sprWrite_user hm hc h with rfl | rfl | rfl
    · exact State.Ordinary.refl _
    · exact State.Ordinary.setLink _ _
    · exact State.Ordinary.setFlags _ _

theorem State.maybeDiscardedRead_reach {s : State} {a : Word} {r : Spr} (hc : s.sprCheck a = .ok r) :
    ∃ d u, s.maybeDiscardedRead r = { s with draws := d, uartIn := u } ∧ (s.mode = .user → u = s.uartIn) := by
  obtain ⟨d, u, e⟩ := State.maybeDiscardedRead_eq s r
  refine ⟨d, u, e, fun hm => ?_⟩
  have hu : (s.maybeDiscardedRead r).uartIn = s.uartIn := by
    unfold State.maybeDiscardedRead
    split
    · split
      · rename_i v t h
        rcases State.sprRead_reach (s := s.drawn) (a := a) hc h with ⟨d, rfl⟩ | ⟨hk, _⟩
        · rfl
        · rw [show s.drawn.mode = s.mode from rfl, hm] at hk; cases hk
      · rfl
      · rfl
    · rfl
  rw [e] at hu; exact hu

theorem State.Ends.illegal {i : Instr} (s : State) : State.Ends i s (s.enter .illegalInstruction) :=
  .trap .illegalInstruction s.draws s.uartIn (fun e => by cases e) (fun _ => rfl) rfl

theorem State.Ends.privileged {i : Instr} {s t u : State} (h : (s.privileged (.ok () u)).run = .next t)
    (hu : s.mode = .kernel → s.Ordinary u) : State.Ends i s t := by
  unfold State.privileged at h
  split at h
  · rename_i hm; cases h; exact .ordinary (hu hm)
  · cases h; exact State.Ends.illegal s

/-- The ways in which any instruction can end. -/
theorem exec_ends {i : Instr} {s t : State} (h : exec i s = .next t) : State.Ends i s t := by
  cases i with
  | illegal0 => cases h; exact State.Ends.illegal s
  | ldw rA rB imm7 =>
    exact State.Ends.ofLoad h (fun v u hu => .inl (State.readWord_eq_ok hu))
      (fun k u hu => ⟨wordPair_ne_interrupt (State.readWord_eq_raise hu).2, (State.readWord_eq_raise hu).1⟩)
  | ldb rA rB imm7 =>
    refine State.Ends.ofLoad h (fun v u hu => ?_) (fun k u hu => ?_)
    · obtain ⟨b, w, h1, h2⟩ := Res.bind_eq_ok hu
      cases h2; exact .inl (State.readByte_eq_ok h1)
    · rcases Res.bind_eq_raise hu with h1 | ⟨b, w, h1, h2⟩
      · exact ⟨pageFault_ne_interrupt (State.readByte_eq_raise h1).2, (State.readByte_eq_raise h1).1⟩
      · cases h2
  | stw rA rB imm7 =>
    refine State.Ends.ofRun h (fun u hu => ?_) (fun k u hu => ?_)
    · obtain ⟨_, w, h1, h2⟩ := Res.bind_eq_ok hu
      cases h2
      obtain ⟨p, hp, rfl⟩ := State.writeWord_eq_ok h1
      exact (State.Ordinary.ofWritePair hp).advance
    · rcases Res.bind_eq_raise hu with h1 | ⟨_, w, h1, h2⟩
      · obtain ⟨rfl, e⟩ := State.writeWord_eq_raise h1
        exact ⟨wordPair_ne_interrupt e, u.draws, u.uartIn, rfl, fun _ => rfl⟩
      · cases h2
  | stb rA rB imm7 =>
    refine State.Ends.ofRun h (fun u hu => ?_) (fun k u hu => ?_)
    · obtain ⟨_, w, h1, h2⟩ := Res.bind_eq_ok hu
      cases h2
      obtain ⟨p, hp, rfl⟩ := State.writeByte_eq_ok h1
      exact (State.Ordinary.ofStore (s.writePhys_frame p _) fun pa e => e ▸ ⟨_, hp⟩).advance
    · rcases Res.bind_eq_raise hu with h1 | ⟨_, w, h1, h2⟩
      · obtain ⟨rfl, e⟩ := State.writeByte_eq_raise h1
        exact ⟨pageFault_ne_interrupt e, u.draws, u.uartIn, rfl, fun _ => rfl⟩
      · cases h2
  | adi rA rB imm7 =>
    cases h
    exact .ordinary (((State.Ordinary.setRegOrLink s rA _).thenFlags (by simp) _).advance)
  | lui rA imm10 => cases h; exact .ordinary (State.Ordinary.setRegOrLink s rA _).advance
  | brAlways imm10 => cases h; exact .ordinary (State.Ordinary.branch s _ _)
  | brLink imm10 => cases h; exact .ordinary ((State.Ordinary.setLink s _).jump _)
  | brEq imm10 => cases h; exact .ordinary (State.Ordinary.branch s _ _)
  | brNe imm10 => cases h; exact .ordinary (State.Ordinary.branch s _ _)
  | brUge imm10 => cases h; exact .ordinary (State.Ordinary.branch s _ _)
  | brUlt imm10 => cases h; exact .ordinary (State.Ordinary.branch s _ _)
  | brSge imm10 => cases h; exact .ordinary (State.Ordinary.branch s _ _)
  | brSlt imm10 => cases h; exact .ordinary (State.Ordinary.branch s _ _)
  | jal rA rB imm6 => cases h; exact .ordinary ((State.Ordinary.setRegOrLink s rA _).jump _)
  | sbb rA rB rC => cases h; exact .ordinary (State.Ordinary.putResult s rA _)
  | adc rA rB rC => cases h; exact .ordinary (State.Ordinary.putResult s rA _)
  | sub rA rB rC => cases h; exact .ordinary (State.Ordinary.putResult s rA _)
  | add rA rB rC => cases h; exact .ordinary (State.Ordinary.putResult s rA _)
  | xor rA rB rC => cases h; exact .ordinary (State.Ordinary.putResult_drawn s rA _)
  | or rA rB rC => cases h; exact .ordinary (State.Ordinary.putResult_drawn s rA _)
  | and rA rB rC => cases h; exact .ordinary (State.Ordinary.putResult_drawn s rA _)
  | lsp rA rB =>
    change ((s.checked (s.sprCheck (s.reg rB)) fun r => (s.sprRead r).intoReg rA).run) = .next t at h
    cases hc : s.sprCheck (s.reg rB) with
    | error k =>
      rw [hc] at h; cases h
      exact .trap k s.draws s.uartIn (by rw [State.sprCheck_error hc]; intro e; cases e) (fun _ => rfl) rfl
    | ok r =>
      rw [hc] at h
      exact State.Ends.ofLoad h (fun v u hu => (State.sprRead_reach hc hu).imp_left fun ⟨d, e⟩ => ⟨d, _, e⟩) (fun k u hu => absurd hu State.sprRead_ne_raise)
  | lsi rA rB =>
    refine State.Ends.ofRun h (fun u hu => ?_) (fun k u hu => ?_)
    · obtain ⟨r, hc, h1⟩ := State.checked_eq_ok hu
      obtain ⟨v, w, h2, h3⟩ := Res.bind_eq_ok h1
      obtain ⟨_, x, h4, h5⟩ := Res.bind_eq_ok h3
      cases h5
      obtain ⟨d, q, rfl⟩ := State.readWord_eq_ok h2
      exact (State.Ordinary.of_reads (State.sprWrite_reach (s := { s with draws := d, deviceRefs := q }) (a := s.reg rA) hc h4)).advance
    · rcases State.checked_eq_raise hu with ⟨e, rfl⟩ | ⟨r, hc, h1⟩
      · exact ⟨(by rw [State.sprCheck_error e]; intro e; cases e), u.draws, u.uartIn, rfl, fun _ => rfl⟩
      · rcases Res.bind_eq_raise h1 with h2 | ⟨v, w, h2, h3⟩
        · obtain ⟨rfl, e⟩ := State.readWord_eq_raise h2
          exact ⟨wordPair_ne_interrupt e, u.draws, u.uartIn, rfl, fun _ => rfl⟩
        · rcases Res.bind_eq_raise h3 with h4 | ⟨_, x, h4, h5⟩
          · exact absurd h4 State.sprWrite_ne_raise
          · cases h5
  | ssp rA rB =>
    refine State.Ends.ofRun h (fun u hu => ?_) (fun k u hu => ?_)
    · obtain ⟨r, hc, h1⟩ := State.checked_eq_ok hu
      obtain ⟨_, x, h4, h5⟩ := Res.bind_eq_ok h1
      cases h5
      exact (State.sprWrite_reach hc h4).advance
    · rcases State.checked_eq_raise hu with ⟨e, rfl⟩ | ⟨r, hc, h1⟩
      · exact ⟨(by rw [State.sprCheck_error e]; intro e; cases e), u.draws, u.uartIn, rfl, fun _ => rfl⟩
      · rcases Res.bind_eq_raise h1 with h4 | ⟨_, x, h4, h5⟩
        · exact absurd h4 State.sprWrite_ne_raise
        · cases h5
  | ssi rA rB =>
    refine State.Ends.ofRun h (fun u hu => ?_) (fun k u hu => ?_)
    · obtain ⟨r, hc, h1⟩ := State.checked_eq_ok hu
      obtain ⟨_, x, h2, h3⟩ := Res.bind_eq_ok h1
      cases h3
      unfold State.storeSpecial at h2
      split at h2
      · cases h2
      · rename_i p hp
        obtain ⟨v, w, h4, h5⟩ := Res.bind_eq_ok h2
        cases h5
        rcases State.sprRead_reach hc h4 with ⟨d, rfl⟩ | ⟨hm, d, y, rfl⟩
        · exact (State.Ordinary.of_reads (r := s.deviceRefs) (State.Ordinary.ofWritePair (s := { s with draws := d }) hp)).advance
        · have hp' : ({ s with draws := d, uartIn := y } : State).wordPair (s.reg rB) .dataWrite = .ok p :=
            (State.wordPair_congr rfl rfl rfl rfl _ _).trans hp
          have o := State.Ordinary.ofWritePair (v := v) hp'
          have no : s.mode = .user → False := by rw [hm]; intro e; cases e
          exact State.Ordinary.advance ⟨o.mode, o.cfg, o.irqInput, o.memory,
            fun pa hne => (o.stores pa hne).imp fun va e => (State.translate_congr rfl rfl rfl rfl _ _).symm.trans e,
            fun e => (no e).elim, fun e => (no e).elim, fun e => (no e).elim, fun e => (no e).elim, fun e => (no e).elim,
            fun e => (no e).elim, fun e => (no e).elim, fun e => (no e).elim⟩
    · rcases State.checked_eq_raise hu with ⟨e, rfl⟩ | ⟨r, hc, h1⟩
      · exact ⟨(by rw [State.sprCheck_error e]; intro e; cases e), u.draws, u.uartIn, rfl, fun _ => rfl⟩
      · rcases Res.bind_eq_raise h1 with h2 | ⟨_, x, h2, h3⟩
        · unfold State.storeSpecial at h2
          split at h2
          · rename_i k' hk
            cases h2
            obtain ⟨d, w, e, hw⟩ := State.maybeDiscardedRead_reach hc
            exact ⟨wordPair_ne_interrupt hk, d, w, e, hw⟩
          · rcases Res.bind_eq_raise h2 with h4 | ⟨v, w, h4, h5⟩
            · exact absurd h4 State.sprRead_ne_raise
            · cases h5
        · cases h3
  | lcw rA rB =>
    exact State.Ends.ofLoad h (fun v u hu => .inl (State.readWord_eq_ok hu))
      (fun k u hu => ⟨wordPair_ne_interrupt (State.readWord_eq_raise hu).2, (State.readWord_eq_raise hu).1⟩)
  | sys n rB =>
    simp only [exec, execSys] at h
    split at h
    · cases h; exact .trap (.sys n) s.draws s.uartIn (fun e => by cases e) (fun _ => rfl) rfl
    · cases h; exact State.Ends.illegal s
  | y06 rA rB => cases h; exact State.Ends.illegal s
  | not rA => cases h; exact .ordinary (State.Ordinary.putResult_drawn s rA _)
  | neg rA => cases h; exact .ordinary (State.Ordinary.putResult_drawn s rA _)
  | zxt rA => cases h; exact .ordinary (State.Ordinary.putResult_drawn s rA _)
  | sxt rA => cases h; exact .ordinary (State.Ordinary.putResult_drawn s rA _)
  | sra rA => cases h; exact .ordinary (State.Ordinary.putResult_drawn s rA _)
  | srl rA => cases h; exact .ordinary (State.Ordinary.putResult_drawn s rA _)
  | dub rA => cases h; exact .ordinary (State.Ordinary.putResult_drawn s rA _)
  | ccf => cases h; exact .ordinary (State.Ordinary.setFlags s _).advance
  | scf => cases h; exact .ordinary (State.Ordinary.setFlags s _).advance
  | di => exact State.Ends.privileged h fun hm => State.Ordinary.ofKernel hm rfl rfl rfl rfl
  | ei => exact State.Ends.privileged h fun hm => State.Ordinary.ofKernel hm rfl rfl rfl rfl
  | hlt => exact State.Ends.privileged h fun hm => State.Ordinary.ofKernel hm rfl rfl rfl rfl
  | brk =>
    simp only [exec, execBrk] at h
    split at h
    · cases h; exact .ordinary (State.Ordinary.refl s).advance
    · cases h; exact State.Ends.illegal s
    · cases h; exact .ordinary ((State.Ordinary.refl s).mk_pc _ _ _)
  | rti =>
    simp only [exec, execRti, State.privileged] at h
    split at h
    · rename_i hm
      rcases Res.run_eq_next h with h | ⟨k, u, h1, _⟩
      · exact .rti rfl hm h
      · unfold State.returnFromTrap at h1
        split at h1
        · cases h1
        · split at h1 <;> cases h1
    · cases h; exact State.Ends.illegal s
  | die => cases h; exact State.Ends.illegal s

end Sys2Proof.Machine
end

