-- ==== Sys2Proof/Laws/PerInstr.lean ====
section
/-! SUPPORT. The laws that are stated of each instruction as syntax, one lemma per constructor. -/

/-- The instruction's word is a word of its row of the opcode map: under the row's mask it is the row's match (R105). -/
def Sys2Proof.Laws.MatchesRow.Statement (i : Sys2Proof.Instr) : Prop :=
  Sys2Proof.encode i &&& i.row.1 = i.row.2

namespace Sys2Proof.Laws

theorem MatchesRow.illegal0 : MatchesRow.Statement .illegal0 := rfl
theorem MatchesRow.ldw (rA rB : Reg) (imm7 : BitVec 7) : MatchesRow.Statement (.ldw rA rB imm7) := (formatM_masked _ _ _ _).trans rfl
theorem MatchesRow.ldb (rA rB : Reg) (imm7 : BitVec 7) : MatchesRow.Statement (.ldb rA rB imm7) := (formatM_masked _ _ _ _).trans rfl
theorem MatchesRow.stw (rA rB : Reg) (imm7 : BitVec 7) : MatchesRow.Statement (.stw rA rB imm7) := (formatM_masked _ _ _ _).trans rfl
theorem MatchesRow.stb (rA rB : Reg) (imm7 : BitVec 7) : MatchesRow.Statement (.stb rA rB imm7) := (formatM_masked _ _ _ _).trans rfl
theorem MatchesRow.adi (rA rB : Reg) (imm7 : BitVec 7) : MatchesRow.Statement (.adi rA rB imm7) := (formatM_masked _ _ _ _).trans rfl
theorem MatchesRow.lui (rA : Reg) (imm10 : BitVec 10) : MatchesRow.Statement (.lui rA imm10) := (formatU_masked _ _ _).trans rfl
theorem MatchesRow.brAlways (imm10 : BitVec 10) : MatchesRow.Statement (.brAlways imm10) := (formatU_masked_low _ _ _).trans rfl
theorem MatchesRow.brLink (imm10 : BitVec 10) : MatchesRow.Statement (.brLink imm10) := (formatU_masked_low _ _ _).trans rfl
theorem MatchesRow.brEq (imm10 : BitVec 10) : MatchesRow.Statement (.brEq imm10) := (formatU_masked_low _ _ _).trans rfl
theorem MatchesRow.brNe (imm10 : BitVec 10) : MatchesRow.Statement (.brNe imm10) := (formatU_masked_low _ _ _).trans rfl
theorem MatchesRow.brUge (imm10 : BitVec 10) : MatchesRow.Statement (.brUge imm10) := (formatU_masked_low _ _ _).trans rfl
theorem MatchesRow.brUlt (imm10 : BitVec 10) : MatchesRow.Statement (.brUlt imm10) := (formatU_masked_low _ _ _).trans rfl
theorem MatchesRow.brSge (imm10 : BitVec 10) : MatchesRow.Statement (.brSge imm10) := (formatU_masked_low _ _ _).trans rfl
theorem MatchesRow.brSlt (imm10 : BitVec 10) : MatchesRow.Statement (.brSlt imm10) := (formatU_masked_low _ _ _).trans rfl
theorem MatchesRow.jal (rA rB : Reg) (imm6 : BitVec 6) : MatchesRow.Statement (.jal rA rB imm6) := formatJ_masked _ _ _
theorem MatchesRow.sbb (rA rB rC : Reg) : MatchesRow.Statement (.sbb rA rB rC) := (formatX_masked _ _ _ _).trans rfl
theorem MatchesRow.adc (rA rB rC : Reg) : MatchesRow.Statement (.adc rA rB rC) := (formatX_masked _ _ _ _).trans rfl
theorem MatchesRow.sub (rA rB rC : Reg) : MatchesRow.Statement (.sub rA rB rC) := (formatX_masked _ _ _ _).trans rfl
theorem MatchesRow.add (rA rB rC : Reg) : MatchesRow.Statement (.add rA rB rC) := (formatX_masked _ _ _ _).trans rfl
theorem MatchesRow.xor (rA rB rC : Reg) : MatchesRow.Statement (.xor rA rB rC) := (formatX_masked _ _ _ _).trans rfl
theorem MatchesRow.or (rA rB rC : Reg) : MatchesRow.Statement (.or rA rB rC) := (formatX_masked _ _ _ _).trans rfl
theorem MatchesRow.and (rA rB rC : Reg) : MatchesRow.Statement (.and rA rB rC) := (formatX_masked _ _ _ _).trans rfl
theorem MatchesRow.lsp (rA rB : Reg) : MatchesRow.Statement (.lsp rA rB) := (formatY_masked _ _ _).trans rfl
theorem MatchesRow.lsi (rA rB : Reg) : MatchesRow.Statement (.lsi rA rB) := (formatY_masked _ _ _).trans rfl
theorem MatchesRow.ssp (rA rB : Reg) : MatchesRow.Statement (.ssp rA rB) := (formatY_masked _ _ _).trans rfl
theorem MatchesRow.ssi (rA rB : Reg) : MatchesRow.Statement (.ssi rA rB) := (formatY_masked _ _ _).trans rfl
theorem MatchesRow.lcw (rA rB : Reg) : MatchesRow.Statement (.lcw rA rB) := (formatY_masked _ _ _).trans rfl
theorem MatchesRow.sys (n rB : Reg) : MatchesRow.Statement (.sys n rB) := (formatY_masked _ _ _).trans rfl
theorem MatchesRow.y06 (rA rB : Reg) : MatchesRow.Statement (.y06 rA rB) := (formatY_masked _ _ _).trans rfl
theorem MatchesRow.not (rA : Reg) : MatchesRow.Statement (.not rA) := (formatZ_masked _ _).trans rfl
theorem MatchesRow.neg (rA : Reg) : MatchesRow.Statement (.neg rA) := (formatZ_masked _ _).trans rfl
theorem MatchesRow.zxt (rA : Reg) : MatchesRow.Statement (.zxt rA) := (formatZ_masked _ _).trans rfl
theorem MatchesRow.sxt (rA : Reg) : MatchesRow.Statement (.sxt rA) := (formatZ_masked _ _).trans rfl
theorem MatchesRow.sra (rA : Reg) : MatchesRow.Statement (.sra rA) := (formatZ_masked _ _).trans rfl
theorem MatchesRow.srl (rA : Reg) : MatchesRow.Statement (.srl rA) := (formatZ_masked _ _).trans rfl
theorem MatchesRow.dub (rA : Reg) : MatchesRow.Statement (.dub rA) := (formatZ_masked _ _).trans rfl
theorem MatchesRow.ccf : MatchesRow.Statement .ccf := rfl
theorem MatchesRow.scf : MatchesRow.Statement .scf := rfl
theorem MatchesRow.di : MatchesRow.Statement .di := rfl
theorem MatchesRow.ei : MatchesRow.Statement .ei := rfl
theorem MatchesRow.hlt : MatchesRow.Statement .hlt := rfl
theorem MatchesRow.brk : MatchesRow.Statement .brk := rfl
theorem MatchesRow.rti : MatchesRow.Statement .rti := rfl
theorem MatchesRow.die : MatchesRow.Statement .die := rfl

end Sys2Proof.Laws
end

