-- ==== Sys2Proof/Laws/Step.lean ====
section
/-! SUPPORT. Everything a step that answers a next state can have done: the one case split over the step's layers, which
later proofs cite instead of unfolding them. -/

namespace Sys2Proof.Machine

/-- A step that goes on: a halted machine waits, or is woken by an interrupt; an interrupt is entered; the trace trap
comes before the instruction; the fetch raises a trap; or the fetched word's instruction runs, the trace trap perhaps
following it. -/
theorem step_cases {s t : State} (h : step s = .next t) :
    (t = s.boundary ∧ s.halted = true) ∨
    (s.halted = true ∧ s.ie = true ∧ t = ({ s.boundary with halted := false } : State).enter .interrupt) ∨
    (s.ie = true ∧ t = s.boundary.enter .interrupt) ∨
    (s.boundary.bankOk = true ∧ s.mode = .user ∧ t = s.boundary.enter .trace) ∨
    (s.boundary.bankOk = true ∧ ∃ k, k ≠ .interrupt ∧ t = s.boundary.enter k) ∨
    (s.boundary.bankOk = true ∧ ∃ w d q u, s.boundary.fetch = .ok w { s.boundary with draws := d, deviceRefs := q } ∧
      exec (decodeWord w) { s.boundary with draws := d, deviceRefs := q } = .next u ∧
      (t = u ∨ (u.mode = .user ∧ s.mode = .user ∧ t = u.enter .trace))) := by
  unfold step stepOnce at h
  split at h
  · rename_i hh
    unfold haltedStep at h
    split at h
    · cases h
    · split at h
      · rename_i hi
        split at h
        · cases h; exact .inr (.inl ⟨hh, hi, rfl⟩)
        · cases h; exact .inl ⟨rfl, hh⟩
      · cases h
  · split at h
    · rename_i hi
      simp only [State.interrupted, Bool.and_eq_true] at hi
      cases h; exact .inr (.inr (.inl ⟨hi.1, rfl⟩))
    · unfold instructionStep at h
      split at h
      · rename_i hb
        split at h
        · rename_i ha
          simp only [State.armed, Bool.and_eq_true, decide_eq_true_eq] at ha
          cases h; exact .inr (.inr (.inr (.inl ⟨hb, ha.1.1, rfl⟩)))
        · unfold fetchAndRun at h
          split at h
          · rename_i w s1 hf
            obtain ⟨d, q, rfl⟩ := State.fetch_eq_ok hf
            unfold afterInstruction at h
            split at h
            · rename_i u hu
              refine .inr (.inr (.inr (.inr (.inr ⟨hb, w, d, q, u, hf, hu, ?_⟩))))
              split at h
              · rename_i ha
                simp only [State.armed, Bool.and_eq_true, decide_eq_true_eq] at ha
                cases h; exact .inr ⟨ha.1.2, ha.1.1.1.1, rfl⟩
              · cases h; exact .inl rfl
            · cases h
            · cases h
          · rename_i k s1 hf
            obtain ⟨rfl, hk⟩ := State.fetch_eq_raise hf
            cases h
            refine .inr (.inr (.inr (.inr (.inl ⟨hb, k, ?_, rfl⟩))))
            intro e; subst e
            have al : ∀ a, s.boundary.alignedPair a .fetch = .error .interrupt → False := by
              intro a ha
              unfold State.alignedPair at ha
              split at ha
              · cases ha
              · rename_i k' hk'; cases ha; exact pageFault_ne_interrupt hk' rfl
            unfold State.fetchPair at hk
            split at hk
            · exact al _ hk
            · split at hk
              · cases hk
              · exact al _ hk
          · cases h
      · cases h

end Sys2Proof.Machine
end

