-- ==== Sys2Proof/Tests/Slice0.lean ====
section
/-! SUPPORT. Tests and witnesses. Words are written out from the bit tables R101, R102 and R105; expected values are
those of spec/95_test_vectors.md, by the number each theorem cites. The last part shows, for every statement of
Obligations.lean that has hypotheses, a state and operands that meet them. -/

namespace Sys2Proof.Tests

open Sys2Proof Sys2Proof.Machine

/-! ### Well-formedness (R251) -/

theorem test_wf_refuses_ldw_zero : Instr.wf (.ldw 0 0 0) = false := by decide
theorem test_wf_accepts_neighbours : Instr.wf (.ldw 1 0 0) = true ∧ Instr.wf (.ldw 0 1 0) = true ∧
    Instr.wf (.ldw 0 0 1) = true ∧ Instr.wf (.ldb 0 0 0) = true := by decide

/-! ### Decoding: every constructor, bit by bit -/

theorem test_decode_format_M :
    decodeWord 0b000_1111110_010_001 = .ldw 1 2 (-2) ∧ decodeWord 0b001_0000001_010_001 = .ldb 1 2 1 ∧
    decodeWord 0b010_0000000_100_011 = .stw 3 4 0 ∧ decodeWord 0b011_0000011_100_110 = .stb 6 4 3 ∧
    decodeWord 0b100_1111111_001_001 = .adi 1 1 (-1) := by decide
theorem test_decode_format_U : decodeWord 0b101_1111111111_001 = .lui 1 0x3FF := by decide
theorem test_decode_format_B :
    decodeWord 0b110_0000000101_000 = .brAlways 5 ∧ decodeWord 0b110_0111111111_001 = .brLink 511 ∧
    decodeWord 0b110_0000000100_010 = .brEq 4 ∧ decodeWord 0b110_1111111100_011 = .brNe (-4) ∧
    decodeWord 0b110_0000000001_100 = .brUge 1 ∧ decodeWord 0b110_0000000001_101 = .brUlt 1 ∧
    decodeWord 0b110_0000000010_110 = .brSge 2 ∧ decodeWord 0b110_1111111111_111 = .brSlt (-1) := by decide
theorem test_decode_format_J :
    decodeWord 0b1110_100100_101_101 = .jal 5 5 0x24 ∧ decodeWord 0b1110_000011_010_001 = .jal 1 2 3 := by decide
theorem test_decode_format_X :
    decodeWord 0b1111_000_010_001_011 = .sbb 3 1 2 ∧ decodeWord 0b1111_001_010_001_011 = .adc 3 1 2 ∧
    decodeWord 0b1111_010_010_001_011 = .sub 3 1 2 ∧ decodeWord 0b1111_011_010_001_011 = .add 3 1 2 ∧
    decodeWord 0b1111_100_001_001_001 = .xor 1 1 1 ∧ decodeWord 0b1111_101_000_001_011 = .or 3 1 0 ∧
    decodeWord 0b1111_110_010_001_000 = .and 0 1 2 := by decide
theorem test_decode_format_Y :
    decodeWord 0b1111111_000_010_001 = .lsp 1 2 ∧ decodeWord 0b1111111_001_010_001 = .lsi 1 2 ∧
    decodeWord 0b1111111_010_010_001 = .ssp 1 2 ∧ decodeWord 0b1111111_011_010_001 = .ssi 1 2 ∧
    decodeWord 0b1111111_100_010_001 = .lcw 1 2 ∧ decodeWord 0b1111111_101_000_111 = .sys 7 0 ∧
    decodeWord 0b1111111_110_111_111 = .y06 7 7 := by decide
theorem test_decode_format_Z :
    decodeWord 0b1111111111_000_001 = .not 1 ∧ decodeWord 0b1111111111_001_001 = .neg 1 ∧
    decodeWord 0b1111111111_010_001 = .zxt 1 ∧ decodeWord 0b1111111111_011_001 = .sxt 1 ∧
    decodeWord 0b1111111111_100_001 = .sra 1 ∧ decodeWord 0b1111111111_101_001 = .srl 1 ∧
    decodeWord 0b1111111111_110_111 = .dub 7 := by decide
theorem test_decode_format_V :
    decodeWord 0b1111111111111_000 = .ccf ∧ decodeWord 0b1111111111111_001 = .scf ∧
    decodeWord 0b1111111111111_010 = .di ∧ decodeWord 0b1111111111111_011 = .ei ∧
    decodeWord 0b1111111111111_100 = .hlt ∧ decodeWord 0b1111111111111_101 = .brk ∧
    decodeWord 0b1111111111111_110 = .rti ∧ decodeWord 0b1111111111111_111 = .die ∧ decodeWord 0 = .illegal0 := by decide
/-- spec/95_test_vectors.md section 2.9. -/
theorem test_decode_boundaries :
    decodeWord 0x0001 = .ldw 1 0 0 ∧ decodeWord 0xE000 = .jal 0 0 0 ∧ decodeWord 0xEFFF = .jal 7 7 0x3F ∧
    decodeWord 0xF000 = .sbb 0 0 0 ∧ decodeWord 0xFDFF = .and 7 7 7 ∧ decodeWord 0xFE00 = .lsp 0 0 ∧
    decodeWord 0xFF7F = .sys 7 7 ∧ decodeWord 0xFFC0 = .not 0 ∧ decodeWord 0xFFF7 = .dub 7 := by decide
theorem test_decode_bytes : decode [0x0D, 0xA0] = .ok (.lui 5 1, []) ∧ decode [0x0D] = .error .truncated := ⟨rfl, rfl⟩
theorem test_decode_table_word : decodeTableWord 16 0x9FC9 = some (.adi 1 1 (-1)) := by decide
theorem test_encode_words : encode (.ldw 1 2 (-2)) = 0x1F91 ∧ encode (.jal 5 5 0x24) = 0xE92D ∧
    encode (.sub 0 1 2) = 0xF488 ∧ encode (.ssp 1 2) = 0xFE91 ∧ encode (.dub 1) = 0xFFF1 := by decide
/-- The aliases' words: S8 to S13, spec/47_assembler_aliases.md. -/
theorem test_alias_words :
    (aliasLdi 1 0x1234).map encode = [0xA241, 0x8D09] ∧ (aliasLdi 3 0x0030).map encode = [0x8C03] ∧
    (aliasLdi 5 0x0040).map encode = [0xA00D] ∧ aliasRtn.map encode = [0xE000] ∧ (aliasJalReg 5).map encode = [0xE02D] ∧
    (aliasSll 1).map encode = [0xF649] ∧ (aliasSla 1).map encode = [0xF249] ∧ (aliasCmp 1 2).map encode = [0xF488] := by
  decide

/-! ### States for the tests -/

/-- The defaults of R4, with one setting of each parameter that has none. -/
def cfg : Config :=
  { defaultConfig with
    misalignedData := .split
    misalignedPc := .ignoreBit0
    sprAddrHigh := .mask7
    ppReserved := ⟨true, true, true, true⟩
    vectors := ⟨0, 1, 2, 3, 4⟩ }

/-- Kernel mode, ie = 0, pc = 0x0100: the start state of spec/95_test_vectors.md part 2. -/
def kern : State := { State.reset with pc := 0x100, cfg := cfg }

/-- Kernel mode with ie = 1. -/
def kernI : State := { kern with ie := true }

/-- User mode in context 1 with ie = 1. -/
def user : State := { kern with mode := .user, ie := true, context := 1 }

/-- With x1 and x2. -/
def regs (s : State) (x1 x2 : Word) : State := (s.setReg 1 x1).setReg 2 x2

/-- With the flags C, Z, N, V. -/
def czn (s : State) (c z n v : Bool) : State := s.setFlags ⟨c, z, n, v⟩

/-- With a data MMU register of a context. -/
def data (s : State) (c : Nat) (i : Fin 16) (v : Word) : State :=
  s.setBankAt c { s.bankAt c with dmmu := (s.bankAt c).dmmu.set i.val v }

/-- With a code MMU register of a context. -/
def code (s : State) (c : Nat) (i : Fin 16) (v : Word) : State :=
  s.setBankAt c { s.bankAt c with cmmu := (s.bankAt c).cmmu.set i.val v }

/-- What the state after a word's instruction shows. -/
def after {α : Type} (w : Word) (s : State) (f : State → α) : Option α :=
  match exec (decodeWord w) s with
  | .next t => some (f t)
  | .fault _ => none
  | .refused _ => none

/-- What the state after a step shows. -/
def stepped {α : Type} (s : State) (f : State → α) : Option α :=
  match step s with
  | .next t => some (f t)
  | .fault _ => none
  | .refused _ => none

/-- What a trap entry leaves, but for ICR and IDR. -/
def entry (t : State) : Word × Word × Mode × Bool × Word := (t.irr, t.isr, t.mode, t.ie, t.pc)

/-! ### One instruction each -/

theorem test_ldw_L1 : after 0x1F91 { regs kern 0 0x202 with mem := [(0x200, 0x34), (0x201, 0x12)] }
    (fun t => (t.reg 1, t.pc)) = some (0x1234, 0x102) := by decide
theorem test_ldw_wraps_L7 : after 0x0091 { regs kern 0 0xFFFE with mem := [(0, 0xEF), (1, 0xBE)] }
    (fun t => t.reg 1) = some 0xBEEF := by decide
theorem test_ldb_L2 : after 0x2051 { regs kern 0 0x202 with mem := [(0x203, 0x80)] } (fun t => t.reg 1) = some 0xFF80 := by
  decide
theorem test_ldb_fault_L14 : after 0x2011 (data { regs { user with context := 5 } 7 0x3ABD with pc := 0x100 } 5 3 0x3123)
    (fun t => (t.idr, entry t)) = some (0x3ABD, 0x100, 1, .kernel, false, 8) := by decide
theorem test_stw_L4 : after 0x4011 (regs kern 0xABCD 0x200) (fun t => (t.byteAt 0x200, t.byteAt 0x201)) =
    some (0xCD, 0xAB) := by decide
theorem test_stw_readonly_L12 : after 0x4011 (data (regs kernI 0x9999 0x3ABC) 0 3 0x1123)
    (fun t => (t.idr, entry t)) = some (0x3ABC, 0x100, 0, .kernel, false, 8) := by decide
theorem test_stb_L5 : after 0x6051 { regs kern 0xABCD 0x200 with mem := [(0x200, 0x11), (0x201, 0x22)] }
    (fun t => (t.byteAt 0x200, t.byteAt 0x201)) = some (0x11, 0xCD) := by decide
theorem test_stb_rr_bits_L15 : after 0x6011 (data (regs kern 0x9999 0x3ABD) 0 3 0xC123) (fun t => t.byteAt 0x123ABD) =
    some 0x99 := by decide
theorem test_adi_A4 : after 0x9009 (regs kern 0x8000 0) (fun t => (t.reg 1, t.flags)) =
    some (0x7FC0, ⟨true, false, false, true⟩) := by decide
theorem test_adi_link_A5 : after 0x80D0 (regs kern 0 0x100) (fun t => (t.link, t.flags)) =
    some (0x103, ⟨false, false, false, false⟩) := by decide
theorem test_lui_A8 : after 0xBFF9 (czn kern true false true false) (fun t => (t.reg 1, t.flags)) =
    some (0xFFC0, ⟨true, false, true, false⟩) := by decide
theorem test_lui_link_A9 : after 0xA090 kern (fun t => (t.link, t.pc)) = some (0x480, 0x102) := by decide
theorem test_brAlways_B2 : after 0xDFF8 kern (fun t => t.pc) = some 0x100 := by decide
theorem test_brAlways_B14 : after 0xC020 { kern with cfg := { cfg with branchUnit := .byte } } (fun t => t.pc) =
    some 0x106 := by decide
theorem test_brLink_B3 : after 0xCFF9 kern (fun t => (t.link, t.pc)) = some (0x102, 0x500) := by decide
theorem test_brEq_B4_B5 : after 0xC022 (czn kern false true false false) (fun t => t.pc) = some 0x10A ∧
    after 0xC022 kern (fun t => t.pc) = some 0x102 := by decide
theorem test_brNe_B6 : after 0xDFE3 kern (fun t => t.pc) = some 0xFA := by decide
theorem test_brUge_B7 : after 0xC00C (czn kern true false false false) (fun t => t.pc) = some 0x104 := by decide
theorem test_brUlt_B8 : after 0xC00D (czn kern true false false false) (fun t => t.pc) = some 0x102 := by decide
theorem test_brSge_B9_B10 : after 0xC016 (czn kern false false true true) (fun t => t.pc) = some 0x106 ∧
    after 0xC016 (czn kern false false true false) (fun t => t.pc) = some 0x102 := by decide
theorem test_brSlt_B11 : after 0xC017 (czn kern false false false true) (fun t => t.pc) = some 0x106 := by decide
theorem test_jal_J1 : after 0xE92D { kern.setReg 5 0x480 with pc := 0x40 } (fun t => (t.pc, t.reg 5)) =
    some (0x4A4, 0x42) := by decide
theorem test_jal_rtn_J3 : after 0xE000 { kern.setLink 0x146 with pc := 0x200 } (fun t => (t.pc, t.link)) =
      some (0x140, 0x202) ∧
    after 0xE000 { kern.setLink 0x146 with pc := 0x200, cfg := { cfg with jalTarget := .add } }
      (fun t => (t.pc, t.link)) = some (0x146, 0x202) := by decide
theorem test_add_X2 : after 0xF68B (regs kern 0x8000 0x8000) (fun t => (t.reg 3, t.flags)) =
    some (0, ⟨true, true, false, true⟩) := by decide
theorem test_adc_X5 : after 0xF28B (czn (regs kern 0x7FFF 0) true false false false) (fun t => (t.reg 3, t.flags)) =
    some (0x8000, ⟨false, false, true, true⟩) := by decide
theorem test_adc_sla_X6 : after 0xF249 (czn (regs kern 0x8001 0) true false false false) (fun t => (t.reg 1, t.flags)) =
    some (3, ⟨true, false, false, true⟩) := by decide
theorem test_sub_X9 : after 0xF48B (regs kern 0x8000 1) (fun t => (t.reg 3, t.flags)) =
    some (0x7FFF, ⟨true, false, false, true⟩) := by decide
theorem test_sub_cmp_X12 : after 0xF488 (regs kern 5 7) (fun t => (t.reg 0, t.flags)) =
    some (0, ⟨false, false, true, false⟩) := by decide
theorem test_sbb_X14 : after 0xF08B (regs kern 0 0xFFFF) (fun t => (t.reg 3, t.flags)) =
    some (0, ⟨false, true, false, false⟩) := by decide
theorem test_sbb_X15 : after 0xF08B (czn (regs kern 7 2) true false false false) (fun t => (t.reg 3, t.flags)) =
    some (5, ⟨true, false, false, false⟩) := by decide
theorem test_xor_X17 : after 0xF849 (regs kern 0x5A5A 0) (fun t => (t.reg 1, t.flags.z, t.flags.n)) =
    some (0, true, false) := by decide
theorem test_or_X18 : after 0xFA0B (regs kern 0x8001 0) (fun t => (t.reg 3, t.flags.z, t.flags.n)) =
    some (0x8001, false, true) := by decide
theorem test_and_X19 : after 0xFC88 (regs kern 0xF0F0 0x0F0F) (fun t => (t.reg 0, t.flags.z, t.flags.n)) =
    some (0, true, false) := by decide
theorem test_not_Z1 : after 0xFFC1 kern (fun t => t.reg 1) = some 0xFFFF := by decide
theorem test_neg_Z2_Z3 : after 0xFFC9 (regs kern 0x8000 0) (fun t => t.reg 1) = some 0x8000 ∧
    after 0xFFC9 (regs kern 5 0) (fun t => t.reg 1) = some 0xFFFB := by decide
theorem test_zxt_Z4 : after 0xFFD1 (czn (regs kern 0xAB00 0) true false false false)
    (fun t => (t.reg 1, t.flags.c, t.flags.z)) = some (0, false, true) := by decide
theorem test_sxt_Z6 : after 0xFFD9 (regs kern 0x00FF 0) (fun t => (t.reg 1, t.flags.c, t.flags.z)) =
    some (0xFFFF, false, false) := by decide
theorem test_sra_Z9 : after 0xFFE1 (regs kern 0x8003 0) (fun t => (t.reg 1, t.flags.c)) = some (0xC001, true) := by decide
theorem test_srl_Z10 : after 0xFFE9 (czn (regs kern 0xFFFE 0) true false false false) (fun t => (t.reg 1, t.flags.c)) =
    some (0x7FFF, false) := by decide
theorem test_dub_Z12_Z13 : after 0xFFF1 (regs kern 0xFF 0) (fun t => (t.reg 1, t.flags.c, t.flags.z)) =
      some (0, false, true) ∧
    after 0xFFF1 (regs kern 0xAB00 0) (fun t => (t.reg 1, t.flags.z)) = some (0xABAB, false) := by decide
theorem test_lsp_Y6 : after 0xFE11 (({ regs kern 0 18 with context := 3 } : State).setBankAt 3
    (Bank.blank.setReg 2 0xCAFE)) (fun t => t.reg 1) = some 0xCAFE := by decide
theorem test_lsp_flags_word_Y2 : kernelFlagsWord ⟨true, false, true, false⟩ true true 0 = 0x305 ∧
    kernelFlagsWord ⟨true, false, true, false⟩ true true 0xFFFF = 0xFFF5 := by decide
theorem test_ssp_Y8 : after 0xFE91 (regs kernI 0x305 1) (fun t => (t.flags, t.trap, t.ie)) =
    some (⟨true, false, true, false⟩, true, true) := by decide
theorem test_ssp_Y13 : after 0xFE91 (regs kern 0x1005 69) (fun t => (t.bankAt 0).cmmu.get 5) = some 0x1005 := by decide
theorem test_lsi_Y16 : after 0xFE51 { regs kern 80 0x200 with mem := [(0x200, 0x23), (0x201, 0x01)] }
    (fun t => ((t.bankAt 0).dmmu.get 0, t.reg 1, t.reg 2)) = some (0x123, 80, 0x200) := by decide
theorem test_lsi_user_Y17 : after 0xFE51 (regs user 80 0x200) entry = some (0x100, 1, .kernel, false, 4) := by decide
theorem test_ssi_Y18 : after 0xFED1 { regs kern 8 0x200 with irr := 0xBEEF }
    (fun t => (t.byteAt 0x200, t.byteAt 0x201)) = some (0xEF, 0xBE) := by decide
/-- R20: special register 8 is out of reach in user mode. -/
theorem test_ssi_user_illegal : after 0xFED1 (regs user 8 0x200) entry = some (0x100, 1, .kernel, false, 4) := by decide
theorem test_lcw_Y21 : after 0xFF11 { code (regs user 0 0x100) 1 0 0x1000 with mem := [(0x100, 0x11), (0x101, 0xFF)] }
    (fun t => t.reg 1) = some 0xFF11 := by decide
theorem test_sys_Y22 : after 0xFF47 user entry = some (0x102, 1, .kernel, false, 0x3C) := by decide
theorem test_sys_nonzero_rB_Y25 : after 0xFF48 kernI entry = some (0x100, 0, .kernel, false, 4) := by decide
theorem test_y06_Y27 : after 0xFFBF user entry = some (0x100, 1, .kernel, false, 4) := by decide
theorem test_ccf_V1 : after 0xFFF8 (czn kern true true true true) State.flags = some ⟨false, true, true, true⟩ := by decide
theorem test_scf_V3 : after 0xFFF9 user (fun t => ((t.bankAt 1).flags, (t.bankAt 0).flags.c)) =
    some (⟨true, false, false, false⟩, false) := by decide
theorem test_ei_V4 : after 0xFFFB kern (fun t => (t.ie, t.pc)) = some (true, 0x102) := by decide
theorem test_di_V5 : after 0xFFFA kernI (fun t => (t.ie, t.pc)) = some (false, 0x102) := by decide
theorem test_privileged_V6 : after 0xFFFA user entry = some (0x100, 1, .kernel, false, 4) ∧
    after 0xFFFE user entry = some (0x100, 1, .kernel, false, 4) := by decide
theorem test_hlt_V7 : after 0xFFFC kern (fun t => (t.halted, t.pc)) = some (true, 0x102) := by decide
theorem test_brk_V8 : after 0xFFFD user (fun t => (t.pc, t.mode)) = some (0x102, .user) := by decide
theorem test_rti_V9 : after 0xFFFE { kern with irr := 0x200, isr := 1, context := 1 }
    (fun t => (t.mode, t.bankNo, t.pc, t.ie)) = some (.user, 1, 0x200, true) := by decide
theorem test_rti_V11 : after 0xFFFE { kern with irr := 0x200, isr := 0xFFFE } (fun t => (t.mode, t.pc, t.ie)) =
    some (.kernel, 0x200, true) := by decide
theorem test_die_V12 : after 0xFFFF kernI entry = some (0x100, 0, .kernel, false, 4) := by decide
theorem test_die_double_fault_V13 : after 0xFFFF kern (fun t => (t.halted, t.pc)) = some (true, 0x100) := by decide
theorem test_illegal0_V14 : after 0x0000 kernI entry = some (0x100, 0, .kernel, false, 4) := by decide

/-! ### Steps -/

/-- The first instruction after reset, placed by withFetchWord: `ADI r1, r0, 5`. -/
theorem test_first_instruction : stepped (State.reset.withFetchWord 16 0x8141) (fun t => (t.reg 1, t.pc)) =
    some (5, 2) := by decide
theorem test_fetch_page_fault_T1 : stepped (code { kernI with pc := 0x2000 } 0 2 0x3000) (fun t => (t.idr, entry t)) =
    some (0x2000, 0x2000, 0, .kernel, false, 8) := by decide
theorem test_interrupt_T2 : stepped { user with irqInput := [true] } entry = some (0x100, 1, .kernel, false, 16) := by
  decide
theorem test_trace_T4 : stepped ({ regs user 1 0 with trap := true }.withFetchWord 16 0x8049)
    (fun t => ((t.bankAt 1).reg 1, entry t)) = some (2, 0x102, 1, .kernel, false, 12) := by decide
theorem test_sys_is_not_traced_T6 : stepped ({ user with trap := true }.withFetchWord 16 0xFF43) entry =
    some (0x102, 1, .kernel, false, 0x2C) := by decide
theorem test_kernel_is_not_traced_T8 : stepped ({ kernI with trap := true }.withFetchWord 16 0x8049)
    (fun t => (t.mode, t.pc)) = some (.kernel, 0x102) := by decide

/-! ### The parameters and devices -/

/-- A physical map with ROM at 0x200, nothing at 0x300 and a device at 0x400..0x403. -/
def mapped : State :=
  { kern with cfg := { cfg with physMap := [⟨0x200, 0x100, .rom⟩, ⟨0x300, 0x100, .unpopulated⟩, ⟨0x400, 4, .device⟩] } }

/-- R66, R296: one reference for an aligned word, two for a word split at an odd address; no memory changes. -/
theorem test_stw_device : after 0x4011 (regs mapped 0xABCD 0x400) (fun t => (t.deviceRefs, t.mem)) =
      some ([.writeWord 0x400 0xABCD], []) ∧
    after 0x4011 (regs mapped 0xABCD 0x401) (fun t => t.deviceRefs) =
      some [.writeByte 0x401 0xCD, .writeByte 0x402 0xAB] := by decide
/-- A word half on the device: its byte is the device's, the other is memory's. -/
theorem test_stw_device_edge : after 0x4011 (regs mapped 0xABCD 0x403) (fun t => (t.deviceRefs, t.byteAt 0x404)) =
    some ([.writeByte 0x403 0xCD], 0xAB) := by decide
theorem test_ldb_device : after 0x2011 (regs mapped 0 0x403) (fun t => t.deviceRefs.length) = some 1 := by decide
/-- R11, R31: with 300 contexts CONTEXT may be 299, and not 300. -/
theorem test_more_contexts :
    let s : State := { regs kern 0xCAFE 18 with cfg := { cfg with moreContexts := 44 }, context := 299 }
    after 0xFE91 s (fun t => (t.bankAt 299).reg 2) = some 0xCAFE ∧
      after 0xFE91 { s with context := 300 } (fun t => t.pc) = none := by decide
/-- R4: ISR with user as bit 15 clear. -/
theorem test_isr_layout :
    let c : Config := { cfg with isrLayout := ⟨0, 0x8000, 0x8000⟩ }
    after 0xFF47 { user with cfg := c } (fun t => t.isr) = some 0 ∧
      after 0xFF47 { kernI with cfg := c } (fun t => t.isr) = some 0x8000 ∧
      after 0xFFFE { kern with cfg := c, isr := 0x7FFF, context := 1 } (fun t => t.mode) = some .user := by decide

/-! ### Witnesses: states and operands that meet the hypotheses of the statements -/

/-- A code page 2 that is invalid, the pc in it. -/
def lost : State := code { kernI with pc := 0x2FFE } 0 2 0x3000

/-- Data page 1 invalid, page 2 read-only. -/
def pages : State := data (data kern 0 1 0x3000) 0 2 0x1000

theorem witness_DecodeInvertsEncode : Instr.wf (.ldw 0 0 1) = true ∧ Instr.wf (.brSlt 0x3FF) = true := by decide

/-- AddSubResults, CompareThenBranch, LogicResults, ByteUnaryResults, ShiftRightResults, NotNegResults, AdiResult,
LuiResult, CarryFlagInstructions, BranchToSubroutine, FarTransfer: both modes, the last context included. -/
theorem witness_bankOk : kern.bankOk = true ∧ user.bankOk = true ∧ ({ user with context := 255 } : State).bankOk = true := by
  decide
theorem witness_DoubleWordArithmetic : kern.bankOk = true ∧ (5 : Reg) ≠ 0 ∧ (6 : Reg) ≠ 0 ∧ (5 : Reg) ≠ 6 ∧
    (2 : Reg) ≠ 5 ∧ (4 : Reg) ≠ 5 := by decide
theorem witness_LoadConstantPair : kern.bankOk = true ∧ (7 : Reg) ≠ 0 := by decide
theorem witness_ConditionalBranches : (czn kern true true true false).flags = ⟨true, true, true, false⟩ ∧
    kern.flags = ⟨false, false, false, false⟩ := by decide
theorem witness_JalResult : kern.bankOk = true ∧ kern.cfg.jalTarget = .append ∧
    ({ kern with cfg := { cfg with jalTarget := .add } } : State).cfg.jalTarget = .add := by decide

theorem witness_LoadResults_ldw : (regs kern 0 0xFFFE).bankOk = true ∧
    (regs kern 0 0xFFFE).WordReaches ((regs kern 0 0xFFFE).reg 2 + BitVec.ofInt 16 (2 : BitVec 7).toInt) .dataRead 0 :=
  ⟨rfl, ⟨rfl, rfl, .inl rfl, .inl rfl⟩⟩
theorem witness_LoadResults_ldb : (regs kern 0 0xFFF).bankOk = true ∧
    (regs kern 0 0xFFF).Reaches ((regs kern 0 0xFFF).reg 2 + BitVec.ofInt 16 (0 : BitVec 7).toInt) .dataRead 0xFFF ∧
    (regs kern 0 0xFFF).IsStorage 0xFFF := ⟨rfl, rfl, .inl rfl⟩
theorem witness_LoadResults_lcw : (regs user 0 0x100).bankOk = true ∧
    (regs user 0 0x100).WordReaches ((regs user 0 0x100).reg 2) .codeRead 0x100 := ⟨rfl, ⟨rfl, rfl, .inl rfl, .inl rfl⟩⟩
theorem witness_StoreResults_stw : Memory.wf kern.mem = true ∧
    (regs kern 1 0xFFE).WordStores ((regs kern 1 0xFFE).reg 2 + BitVec.ofInt 16 (0 : BitVec 7).toInt) 0xFFE :=
  ⟨rfl, ⟨rfl, rfl, rfl, rfl⟩⟩
theorem witness_StoreResults_stb : Memory.wf kern.mem = true ∧
    (regs kern 1 0x200).Reaches ((regs kern 1 0x200).reg 2 + BitVec.ofInt 16 (-1 : BitVec 7).toInt) .dataWrite 0x1FF ∧
    (regs kern 1 0x200).IsRam 0x1FF := ⟨rfl, rfl, rfl⟩
theorem witness_LoadAfterStore : (regs kern 1 0x200).bankOk = true ∧ Memory.wf (regs kern 1 0x200).mem = true ∧
    (regs kern 1 0x200).WordStores ((regs kern 1 0x200).reg 2 + BitVec.ofInt 16 (0 : BitVec 7).toInt) 0x200 ∧
    (regs kern 1 0x200).Reaches ((regs kern 1 0x200).reg 2 + BitVec.ofInt 16 (0 : BitVec 7).toInt) .dataRead 0x200 ∧
    ((regs kern 1 0x200).reg 2).getLsbD 0 = false ∧
    (regs kern 1 0x200).Reaches ((regs kern 1 0x200).reg 2) .codeRead 0x200 :=
  ⟨rfl, rfl, ⟨rfl, rfl, rfl, rfl⟩, rfl, rfl, rfl⟩
theorem witness_LoadPageFaults_data : (regs pages 7 0x1FFE).InvalidPage ((regs pages 7 0x1FFE).reg 2) .dataRead ∧
    ((regs pages 7 0x1FFE).reg 2).getLsbD 0 = false ∧ ((regs pages 7 0x1FFE).reg 1).toNat ≤ 7 ∧
    (regs pages 7 0x1FFE).mode = .kernel ∧ ((regs pages 127 0x1FFE).reg 1).toNat = 127 := ⟨rfl, rfl, by decide, rfl, rfl⟩
theorem witness_LoadPageFaults_code : (regs lost 0 0x2000).InvalidPage ((regs lost 0 0x2000).reg 2) .codeRead ∧
    ((regs lost 0 0x2000).reg 2).getLsbD 0 = false := ⟨rfl, rfl⟩
theorem witness_StorePageFaults : (regs pages 7 0x1000).InvalidPage ((regs pages 7 0x1000).reg 2) .dataWrite ∧
    (regs pages 7 0x2FFE).ReadOnlyPage ((regs pages 7 0x2FFE).reg 2) ∧
    ((regs pages 7 0x2FFE).reg 2).getLsbD 0 = false ∧ ((regs pages 7 0x2FFE).reg 1).toNat ≤ 7 :=
  ⟨rfl, rfl, rfl, by decide⟩
/-- The address 0xFFF, odd, whose high byte is on the next page; special registers 0 and 11 in rA. -/
theorem witness_MisalignedWords : (regs kern 0 0xFFF).bankOk = true ∧ Memory.wf (regs kern 0 0xFFF).mem = true ∧
    ((regs kern 0 0xFFF).reg 2).getLsbD 0 = true ∧ cfg.misalignedData = .split ∧
    (regs kern 0 0xFFF).Reaches ((regs kern 0 0xFFF).reg 2) .dataRead 0xFFF ∧
    (regs kern 0 0xFFF).Reaches ((regs kern 0 0xFFF).reg 2 + 1) .dataRead 0 ∧
    (regs kern 0 0xFFF).Reaches ((regs kern 0 0xFFF).reg 2) .dataWrite 0xFFF ∧
    (regs kern 0 0xFFF).Reaches ((regs kern 0 0xFFF).reg 2 + 1) .dataWrite 0 ∧
    (regs kern 0 0xFFF).Reaches ((regs kern 0 0xFFF).reg 2) .codeRead 0xFFF ∧
    (regs kern 0 0xFFF).Reaches ((regs kern 0 0xFFF).reg 2 + 1) .codeRead 0 ∧
    (regs kern 0 0xFFF).IsRam 0xFFF ∧ (regs kern 0 0xFFF).IsRam 0 :=
  ⟨rfl, rfl, rfl, rfl, rfl, rfl, rfl, rfl, rfl, rfl, rfl, rfl⟩
theorem witness_MisalignedWords_registers : (regs kern 0 0xFFF).SpecialHolds ((regs kern 0 0xFFF).reg 1).toNat 0 ∧
    (regs kern 11 0xFFF).SpecialHolds ((regs kern 11 0xFFF).reg 1).toNat 0 ∧ ((regs kern 127 0xFFF).reg 1).toNat ≤ 127 ∧
    kern.reg 3 = 0 := ⟨.link, .isr rfl, by decide, rfl⟩
theorem witness_MisalignedWords_ignoreBit0 :
    let s : State := { regs kern 0 0xFFF with cfg := { cfg with misalignedData := .ignoreBit0 } }
    s.WordReaches (s.reg 2 - 1) .dataRead 0xFFE ∧ s.WordReaches (s.reg 2 - 1) .codeRead 0xFFE ∧
      s.WordStores (s.reg 2 - 1) 0xFFE ∧ ({ cfg with misalignedData := .fault } : Config).misalignedData = .fault :=
  ⟨⟨rfl, rfl, .inl rfl, .inl rfl⟩, ⟨rfl, rfl, .inl rfl, .inl rfl⟩, ⟨rfl, rfl, rfl, rfl⟩, rfl⟩
theorem witness_PhysicalKinds : mapped.bankOk = true ∧ mapped.kindAt 0x2FE = .rom ∧ mapped.kindAt 0x2FF = .rom ∧
    mapped.kindAt 0x300 = .unpopulated ∧ mapped.kindAt 0x301 = .unpopulated ∧ mapped.Reaches 0x2FF .dataWrite 0x2FF ∧
    mapped.Reaches 0x2FE .dataWrite 0x2FE ∧ mapped.Reaches 0x300 .dataRead 0x300 ∧ mapped.Reaches 0x300 .codeRead 0x300 :=
  ⟨rfl, rfl, rfl, rfl, rfl, rfl, rfl, rfl, rfl⟩
theorem witness_DeviceReferences : mapped.bankOk = true ∧ mapped.kindAt 0x400 = .device ∧ mapped.kindAt 0x401 = .device ∧
    mapped.kindAt 0x403 = .device ∧ mapped.Reaches 0x403 .dataRead 0x403 ∧ mapped.Reaches 0x400 .dataRead 0x400 ∧
    mapped.Reaches 0x400 .dataWrite 0x400 ∧ mapped.Reaches 0x400 .codeRead 0x400 :=
  ⟨rfl, rfl, rfl, rfl, rfl, rfl, rfl, rfl⟩
/-- PP = 0, 1 and 3 on pages 0, 2 and 1, and the reserved value 2 under a layout of either kind. -/
theorem witness_TranslationTable : (0 : Fin 16).val = (0xFFF : Word).toNat / 4096 ∧
    (2 : Fin 16).val = (0x2000 : Word).toNat / 4096 ∧ (1 : Fin 16).val = (0x1FFF : Word).toNat / 4096 ∧
    ((pages.bankAt 0).dmmu.get 2).toNat / 4096 % 4 = 1 ∧ ((pages.bankAt 0).dmmu.get 1).toNat / 4096 % 4 = 3 ∧
    ((pages.bankAt 0).dmmu.get 0).toNat / 4096 % 4 = 0 ∧
    (((data kern 0 15 0x2000).bankAt 0).dmmu.get 15).toNat / 4096 % 4 = 2 := by decide

theorem witness_LspReads : (regs kern 0 95).bankOk = true ∧ kern.SpecialHolds 95 0 ∧ kern.SpecialHolds 64 0 ∧
    kern.SpecialHolds 63 0 ∧ kern.SpecialHolds 16 0 ∧ user.SpecialHolds 0 0 ∧ user.SpecialHolds 7 0 ∧
    kern.SpecialUndefined 2 ∧ kern.SpecialUndefined 127 ∧ user.SpecialUndefined 5 ∧ ((regs kern 0 1).reg 2).toNat = 1 :=
  ⟨rfl, .kernData 15 rfl, .kernCode 0 rfl, .userData 15 rfl (by decide), .userReg 0 rfl (by decide), .link, .cycleHigh,
    .inl (by decide), .inr ⟨rfl, by decide⟩, .inl (by decide), rfl⟩
theorem witness_SspLinkAndFlags : (regs user 5 0).bankOk = true ∧ ((regs user 5 0).reg 2).toNat = 0 ∧
    ((regs user 5 1).reg 2).toNat = 1 ∧ (regs kern 5 1).mode = .kernel := by decide
theorem witness_SspSingletons : user.SpecialIgnored 7 ∧ kern.SpecialIgnored 9 ∧ kern.SpecialIgnored 127 ∧
    kern.mode = .kernel ∧ ((regs kern 5 8).reg 2).toNat = 8 ∧ ((regs kern 5 11).reg 2).toNat = 11 ∧
    ((regs kern 5 15).reg 2).toNat = 15 :=
  ⟨.inl (by decide), .inr ⟨rfl, by decide⟩, .inr ⟨rfl, by decide⟩, rfl, rfl, rfl, rfl⟩
theorem witness_SspContextRegisters : kern.mode = .kernel ∧ ({ kern with context := 255 } : State).context.toNat < kern.cfg.nctx ∧
    ((regs kern 5 16).reg 2).toNat = 16 + (0 : Reg).val ∧ ((regs kern 5 23).reg 2).toNat = 16 + (7 : Reg).val ∧
    ((regs kern 5 47).reg 2).toNat = 32 + (15 : Fin 16).val ∧ ((regs kern 5 48).reg 2).toNat = 48 + (0 : Fin 16).val ∧
    ((regs kern 5 64).reg 2).toNat = 64 + (0 : Fin 16).val ∧ ((regs kern 5 95).reg 2).toNat = 80 + (15 : Fin 16).val := by
  decide
theorem witness_UartTransfers : kern.mode = .kernel ∧ 96 ≤ ((regs kern 5 96).reg 2).toNat ∧
    ((regs kern 5 96).reg 2).toNat = kern.cfg.uartTx.toNat ∧ ((regs kern 5 97).reg 2).toNat = kern.cfg.uartRx.toNat ∧
    ({ kern with uartIn := [0x41] } : State).uartIn = 0x41 :: [] ∧ kern.uartIn = [] := by decide
theorem witness_LsiResult : (regs kern 127 0x200).WordReaches ((regs kern 127 0x200).reg 2) .dataRead 0x200 ∧
    (regs kern 127 0x200).reg 3 = (regs kern 127 0x200).wordAt 0x200 ∧ (regs kern 127 0x200).mode = .kernel ∧
    (regs kern 127 0x200).context.toNat < kern.cfg.nctx ∧ ((regs kern 127 0x200).reg 1).toNat ≤ 127 ∧
    ((regs kern 8 0x200).reg 1).toNat = 8 ∧ (regs user 0 0x200).bankOk = true ∧ ((regs user 0 0x200).reg 1).toNat = 0 :=
  ⟨⟨rfl, rfl, .inl rfl, .inl rfl⟩, by decide, rfl, by decide, by decide, rfl, rfl, rfl⟩
theorem witness_SsiResult : Memory.wf (regs kern 8 0x200).mem = true ∧
    (regs kern 8 0x200).WordStores ((regs kern 8 0x200).reg 2) 0x200 ∧
    (regs kern 8 0x200).SpecialHolds ((regs kern 8 0x200).reg 1).toNat 0 := ⟨rfl, ⟨rfl, rfl, rfl, rfl⟩, .irr rfl⟩
theorem witness_LsiResult_addresses : ((regs kern 1 0x200).reg 1).toNat = 1 ∧ ((regs kern 11 0x200).reg 1).toNat = 11 ∧
    ((regs kern 15 0x200).reg 1).toNat = 15 ∧ ((regs kern 64 0x200).reg 1).toNat = 64 + (0 : Fin 16).val ∧
    ((regs kern 95 0x200).reg 1).toNat = 80 + (15 : Fin 16).val ∧
    kern.SpecialIgnored ((regs kern 127 0x200).reg 1).toNat := ⟨rfl, rfl, rfl, rfl, rfl, .inr ⟨rfl, by decide⟩⟩
theorem witness_SsiResult_open : (regs kern 5 0x200).SpecialUndefined ((regs kern 5 0x200).reg 1).toNat ∧
    ((regs user 1 0x200).reg 1).toNat = 1 ∧ (regs kern 97 0x200).mode = .kernel ∧
    96 ≤ ((regs kern 97 0x200).reg 1).toNat ∧ ((regs kern 97 0x200).reg 1).toNat = kern.cfg.uartRx.toNat ∧
    ({ kern with uartIn := [0x41, 0x42] } : State).uartIn = 0x41 :: [0x42] ∧ kern.uartIn = [] :=
  ⟨.inl (by decide), rfl, rfl, by decide, rfl, rfl, rfl⟩
theorem witness_UserSpecialAccessIsIllegal : user.mode = .user ∧ 7 < ((regs user 8 8).reg 2).toNat ∧
    7 < ((regs user 8 8).reg 1).toNat := by decide
theorem witness_HighSpecialAddress : kern.mode = .kernel ∧ 127 < ((regs kern 8 0x88).reg 2).toNat ∧
    kern.cfg.sprAddrHigh = .mask7 ∧ ((regs kern 8 0x88).reg 1).toNat = ((regs kern 8 0x88).reg 2).toNat % 128 ∧
    ({ cfg with sprAddrHigh := .illegal } : Config).sprAddrHigh = .illegal := by decide
theorem witness_HighSpecialAddress_rA : 127 < ((regs kern 0xFFFF 127).reg 1).toNat ∧
    ((regs kern 0xFFFF 127).reg 2).toNat = ((regs kern 0xFFFF 127).reg 1).toNat % 128 := by decide
theorem witness_UnknownContextIsRefused : kern.mode = .kernel ∧ kern.cfg.nctx ≤ ({ kern with context := 256 } : State).context.toNat ∧
    16 ≤ ((regs kern 0 23).reg 2).toNat ∧ ((regs kern 0 23).reg 2).toNat ≤ 23 ∧
    32 ≤ ((regs kern 0 63).reg 2).toNat ∧ ((regs kern 0 63).reg 2).toNat ≤ 63 ∧
    user.mode = .user ∧ user.halted = false ∧ user.interrupted = false ∧
    ({ user with context := 0 } : State).context.toNat = 0 := by decide
theorem witness_UnknownContextIsRefused_memory :
    let s : State := { regs kern 32 0x200 with context := 0xFFFF }
    s.cfg.nctx ≤ s.context.toNat ∧ (s.reg 1).toNat = 32 ∧ (s.reg 2).getLsbD 0 = false ∧
      s.Reaches (s.reg 2) .dataRead 0x200 ∧ s.Reaches (s.reg 2) .dataWrite 0x200 :=
  ⟨by decide, rfl, rfl, rfl, rfl⟩

/-- TrapEntry, SysEntry, ZeroWordIsIllegal, ReservedWordsAreIllegal: user mode, and kernel mode with ie = 1. -/
theorem witness_CanEnter : user.CanEnter ∧ kernI.CanEnter := ⟨.inl rfl, .inr rfl⟩
theorem witness_TrapEntry : user.cfg.isrLayout = ⟨1, 0, 1⟩ ∧ user.mode = .user ∧ kernI.cfg.isrLayout = ⟨1, 0, 1⟩ ∧
    kernI.mode = .kernel ∧ (∃ n, TrapKind.sys 7 = .sys n) ∧ (∀ n, TrapKind.trace ≠ .sys n) :=
  ⟨rfl, rfl, rfl, rfl, ⟨7, rfl⟩, fun _ h => by cases h⟩
theorem witness_IcrDistinguishesKinds : TrapKind.trace.event ≠ (TrapKind.sys 7).event ∧
    (TrapKind.pageFault 0 .fetch).event ≠ (TrapKind.misaligned 0 .fetch).event ∧ kernI.CanEnter :=
  ⟨by decide, by decide, .inr rfl⟩
theorem witness_ReservedWordsAreIllegal : (∃ rA rB, (.y06 7 7 : Instr) = .y06 rA rB) ∧
    ∃ n rB, (.sys 7 1 : Instr) = .sys n rB ∧ rB ≠ 0 := ⟨⟨7, 7, rfl⟩, 7, 1, rfl, by decide⟩
theorem witness_DoubleFault : TrapKind.trace ≠ .interrupt ∧ kern.mode = .kernel ∧ kern.ie = false ∧
    kern.cfg.doubleFault = .halt ∧ ({ cfg with doubleFault := .reset } : Config).doubleFault = .reset := by decide
theorem witness_PrivilegedInstructions : user.mode = .user ∧ kern.mode = .kernel ∧ ¬kern.IsrNamesUser ∧
    user.userContextOk = true ∧ kern.cfg.brk ≠ .illegal ∧ user.bankOk = true :=
  ⟨rfl, rfl, (by decide : kern.isr &&& 1 ≠ 1 &&& 1), rfl, by decide, rfl⟩
theorem witness_InterruptEnable : kern.mode = .kernel ∧ user.mode = .user := by decide
theorem witness_HaltedMachine :
    let s : State := { kernI with halted := true, irqInput := [true], cfg := { cfg with hltWake := .interrupt } }
    kern.mode = .kernel ∧ s.halted = true ∧ s.cfg.hltWake = .interrupt ∧ s.ie = true ∧ s.irqLine = true ∧
      ({ s with irqInput := [] } : State).irqLine = false ∧ kern.cfg.hltWake = .never := by decide
theorem witness_BrkBehaviours : kern.cfg.brk = .hostServiceThenContinue ∧
    ({ cfg with brk := .illegal } : Config).brk = .illegal ∧ ({ cfg with brk := .stop } : Config).brk = .stop := by decide
theorem witness_RtiReturns : kern.mode = .kernel ∧ ¬kern.IsrNamesUser ∧
    ({ kern with isr := 0xFFFF, context := 255 } : State).IsrNamesUser ∧ 0 < (255 : Word).toNat ∧
    (255 : Word).toNat < kern.cfg.nctx ∧ kern.cfg.nctx ≤ (256 : Word).toNat ∧ kern.cfg.isrLayout = ⟨1, 0, 1⟩ :=
  ⟨rfl, (by decide : kern.isr &&& 1 ≠ 1 &&& 1), (by decide : (0xFFFF : Word) &&& 1 = 1 &&& 1), by decide, by decide,
    by decide, rfl⟩
theorem witness_RtiReturns_entered : (user.enter (.sys 0)).mode = .kernel ∧ user.CanEnter ∧ user.bankOk = true ∧
    user.cfg.isrLayout.Faithful := ⟨rfl, .inl rfl, rfl, (by decide : (0 : Word) &&& 1 ≠ 1 &&& 1)⟩

theorem witness_StepRunsDecodedInstruction : user.Fetches ∧ user.WordReaches user.pc .fetch 0x100 ∧ user.armed = false ∧
    ({ user with trap := true } : State).Fetches ∧ ({ user with trap := true } : State).armed = true :=
  ⟨⟨rfl, rfl, rfl, fun _ => rfl⟩, ⟨rfl, rfl, .inl rfl, .inl rfl⟩, rfl, ⟨rfl, rfl, rfl, fun _ => rfl⟩, rfl⟩
theorem witness_StepRunsDecodedInstruction_bytes :
    decode [(user.withFetchWord 16 0x8049).byteAt 0x100, (user.withFetchWord 16 0x8049).byteAt 0x101] =
      .ok (.adi 1 1 1, []) := rfl
theorem witness_FetchPageFault : lost.Fetches ∧ lost.InvalidPage lost.pc .fetch ∧ lost.pc.getLsbD 0 = false ∧
    lost.CanEnter := ⟨⟨rfl, rfl, rfl, fun _ => rfl⟩, rfl, rfl, .inr rfl⟩
theorem witness_MisalignedFetch :
    let s : State := { kern with pc := 0xFFF }
    s.Fetches ∧ s.pc.getLsbD 0 = true ∧ s.cfg.misalignedPc = .ignoreBit0 ∧ s.WordReaches (s.pc - 1) .fetch 0xFFE ∧
      s.armed = false ∧ ({ cfg with misalignedPc := .fault } : Config).misalignedPc = .fault :=
  ⟨⟨rfl, rfl, rfl, fun _ => rfl⟩, rfl, rfl, ⟨rfl, rfl, .inl rfl, .inl rfl⟩, rfl, rfl⟩
theorem witness_TraceTrap :
    let s : State := { user with trap := true }.withFetchWord 16 0x8049
    s.halted = false ∧ s.interrupted = false ∧ s.userContextOk = true ∧ s.mode = .user ∧ s.trap = true ∧
      s.cfg.traceTiming = .after ∧ s.WordReaches s.pc .fetch 0x100 ∧
      (∃ u, exec (decodeWord (s.wordAt 0x100)) s.boundary = .next u ∧ u.mode = .user ∧ u.halted = false) ∧
      ({ cfg with traceTiming := .before } : Config).traceTiming = .before :=
  ⟨rfl, rfl, rfl, rfl, rfl, rfl, ⟨rfl, rfl, .inl rfl, .inl rfl⟩, ⟨_, rfl, rfl, rfl⟩, rfl⟩
theorem witness_InterruptBoundary : kernI.halted = false ∧ kernI.ie = true ∧
    ({ kernI with irqInput := [true] } : State).irqLine = true ∧ kern.ie = false := by decide
theorem witness_StepKeepsInvariant : (user.withFetchWord 16 0x8049).Inv ∧
    ∃ t, step (user.withFetchWord 16 0x8049) = .next t := ⟨⟨by decide, fun _ => rfl, fun _ => rfl⟩, _, rfl⟩
theorem witness_StoresNeedWritablePages : ∃ t, step ((regs kern 0xABCD 0x200).withFetchWord 16 0x4011) = .next t ∧
    t.byteAt 0x201 ≠ ((regs kern 0xABCD 0x200).withFetchWord 16 0x4011).byteAt 0x201 := ⟨_, rfl, by decide⟩
theorem witness_UserCodeIsConfined : user.mode = .user ∧ (∃ t, step (user.withFetchWord 16 0x8049) = .next t ∧
    t.mode = .user) ∧ ∃ t, step (user.withFetchWord 16 0xFF47) = .next t ∧ t.mode = .kernel :=
  ⟨rfl, ⟨_, rfl, rfl⟩, _, rfl, rfl⟩
theorem witness_UserModeOnlyByRti :
    let s : State := { kern with isr := 1, irr := 0x200, context := 1 }.withFetchWord 16 0xFFFE
    s.mode = .kernel ∧ ∃ t, step s = .next t ∧ t.mode = .user := ⟨rfl, _, rfl, rfl⟩

end Sys2Proof.Tests
end

section
/-! PROOFS. Comparing and branching (spec/00_scope.md R6): what the flags of a subtraction say about its operands, and
where a conditional branch goes. -/

namespace Sys2Proof.Machine

/-! ### The flags of a subtraction order its operands (R6) -/

/-- Z means equal. -/
theorem subtract_z (a b : Word) : ((subtract a b).2.z = true ↔ a = b) := by
  have hz : ((subtract a b).2.z = true ↔ (subtract a b).1 = 0) := addC_z a (~~~b) true
  rw [hz, subtract_result, sub_eq_zero]

/-- C means no borrow: at least, unsigned. -/
theorem subtract_c (a b : Word) : ((subtract a b).2.c = true ↔ b.toNat ≤ a.toNat) := by
  simpa [subtract, subtractBorrow] using subtractBorrow_c a b true

/-! ### A result written to register 0 -/

/-- Register 0 as the destination discards the result (R13). -/
theorem State.reg_putResult_zero {s : State} (h : s.bankOk = true) (p : Word × Flags) (r : Reg) :
    (s.putResult 0 p).reg r = s.reg r := by
  obtain ⟨computed, -⟩ := State.putResult_computed h 0 p
  by_cases hr : r = 0
  · simp [hr]
  · exact computed.frame.regs r hr

/-! ### Where a conditional branch goes (R150) -/

theorem State.branch_taken {s : State} {cond : Fin 8} (h : branchTaken cond s.flags = true) (imm10 : BitVec 10) :
    s.branch cond imm10 = { s with pc := s.branchTarget imm10 } := by
  simp [State.branch, h, State.jump]

theorem State.branch_notTaken {s : State} {cond : Fin 8} (h : ¬branchTaken cond s.flags = true) (imm10 : BitVec 10) :
    s.branch cond imm10 = { s with pc := s.pc + 2 } := by
  simp [State.branch, h, State.advance]

/-- A branch whose condition means `p` in the flags goes to its target exactly under `p`. -/
theorem exec_branch_iff {i : Instr} {s : State} {cond : Fin 8} {imm10 : BitVec 10} {f : Flags} {p : Prop}
    (hexec : exec i s = .next (s.branch cond imm10)) (hflags : s.flags = f) (hcond : branchTaken cond f = true ↔ p) :
    (p → exec i s = .next { s with pc := s.branchTarget imm10 }) ∧
      (¬p → exec i s = .next { s with pc := s.pc + 2 }) := by
  subst hflags
  rw [hexec, ← hcond]
  exact ⟨fun h => by rw [State.branch_taken h], fun h => by rw [State.branch_notTaken h]⟩

/-! ### Each condition on the flags of a subtraction (R6, R150) -/

theorem branchTaken_eq_subtract (a b : Word) : branchTaken 2 (subtract a b).2 = true ↔ a = b := subtract_z a b

theorem branchTaken_ne_subtract (a b : Word) : branchTaken 3 (subtract a b).2 = true ↔ a ≠ b := by
  rw [ne_eq, ← subtract_z]; simp [branchTaken]

theorem branchTaken_uge_subtract (a b : Word) : branchTaken 4 (subtract a b).2 = true ↔ b.toNat ≤ a.toNat :=
  subtract_c a b

theorem branchTaken_ult_subtract (a b : Word) : branchTaken 5 (subtract a b).2 = true ↔ a.toNat < b.toNat := by
  rw [← Nat.not_le, ← subtract_c]; simp [branchTaken]

theorem branchTaken_sge_subtract (a b : Word) : branchTaken 6 (subtract a b).2 = true ↔ b.toInt ≤ a.toInt := by
  rw [← subtract_signed]; simp [branchTaken]

theorem branchTaken_slt_subtract (a b : Word) : branchTaken 7 (subtract a b).2 = true ↔ a.toInt < b.toInt := by
  rw [← Int.not_le, ← subtract_signed]; simp [branchTaken]

/-- Settles O6: SUB r0 leaves the registers and sets the flags of the subtraction, and each branch condition on those
flags is its order on the operands. -/
theorem compareThenBranch : Obligations.CompareThenBranch := by
  intro rM rN imm10 s hok
  obtain ⟨-, hflags⟩ := State.putResult_computed hok 0 (subtract (s.reg rM) (s.reg rN))
  exact ⟨s.putResult 0 (subtract (s.reg rM) (s.reg rN)), rfl, State.reg_putResult_zero hok _,
    exec_branch_iff rfl hflags (branchTaken_eq_subtract _ _), exec_branch_iff rfl hflags (branchTaken_ne_subtract _ _),
    exec_branch_iff rfl hflags (branchTaken_uge_subtract _ _), exec_branch_iff rfl hflags (branchTaken_ult_subtract _ _),
    exec_branch_iff rfl hflags (branchTaken_sge_subtract _ _), exec_branch_iff rfl hflags (branchTaken_slt_subtract _ _)⟩

end Sys2Proof.Machine
end

section
/-! PROOFS. The step as a whole: a step that fetches runs what it fetched, every step keeps the invariant of a run, and
kernel mode is left for user mode by RTI alone (spec/10_state.md R10, R12, R15, R31; spec/60_exceptions.md R278). -/

namespace Sys2Proof.Machine

/-! ### Returning from a trap (R228) -/

/-- RTI sees user mode in ISR exactly when ISR names it (R29). -/
theorem isrDecode_user_iff (s : State) : isrDecode s.cfg.isrLayout s.isr = .user ↔ s.IsrNamesUser := by
  simp [isrDecode, State.IsrNamesUser]

/-- A return that is not refused ends in the mode ISR names, and in user mode only with a context to run in. -/
theorem State.returnFromTrap_eq_ok {s t : State} (h : s.returnFromTrap = .ok () t) :
    t = { s with mode := .kernel, pc := s.irr, ie := true } ∨
      s.IsrNamesUser ∧ s.userContextOk = true ∧ t = { s with mode := .user, pc := s.irr, ie := true } := by
  unfold State.returnFromTrap at h
  split at h
  · cases h; exact .inl rfl
  · rename_i hisr
    split at h
    · rename_i hctx; cases h; exact .inr ⟨(isrDecode_user_iff s).mp hisr, hctx, rfl⟩
    · cases h

/-! ### The invariant of a run -/

theorem State.Inv.boundary {s : State} (h : s.Inv) : s.boundary.Inv := ⟨h.memory, h.userEnabled, h.userContext⟩

/-- The invariant does not see the draws or the devices' record. -/
theorem State.Inv.withReads {s : State} (h : s.Inv) (d : Nat) (r : List DeviceRef) :
    ({ s with draws := d, deviceRefs := r } : State).Inv := ⟨h.memory, h.userEnabled, h.userContext⟩

/-- In kernel mode the invariant is about memory alone. -/
theorem State.Inv.ofKernel {s : State} (hm : s.mode = .kernel) (hw : Memory.wf s.mem = true) : s.Inv :=
  have notUser : s.mode ≠ .user := by rw [hm]; decide
  ⟨hw, fun hu => absurd hu notUser, fun hu => absurd hu notUser⟩

/-- Every entry ends in kernel mode and leaves memory alone. -/
theorem State.Inv.enter {s : State} (k : TrapKind) (hw : Memory.wf s.mem = true) : (s.enter k).Inv :=
  .ofKernel (s.enter_mode k) (by rw [s.enter_mem k]; exact hw)

/-- An instruction that completes in user mode keeps ie and CONTEXT. -/
theorem State.Inv.ordinary {s t : State} (h : s.Inv) (o : s.Ordinary t) : t.Inv := by
  have before : t.mode = .user → s.mode = .user := fun hu => o.mode ▸ hu
  refine ⟨o.memory h.memory, fun hu => ?_, fun hu => ?_⟩
  · obtain ⟨hie, -⟩ := o.saved (before hu)
    exact hie.trans (h.userEnabled (before hu))
  · have hctx := h.userContext (before hu)
    rw [State.userContextOk] at hctx ⊢
    rw [o.context (before hu), o.cfg]
    exact hctx

/-- A return into user mode checks the context and enables interrupts. -/
theorem State.Inv.returnFromTrap {s t : State} (h : s.Inv) (hr : s.returnFromTrap = .ok () t) : t.Inv := by
  rcases State.returnFromTrap_eq_ok hr with rfl | ⟨-, hctx, rfl⟩
  · exact .ofKernel rfl h.memory
  · exact ⟨h.memory, fun _ => rfl, fun _ => hctx⟩

theorem State.Inv.exec {i : Instr} {s t : State} (h : s.Inv) (he : exec i s = .next t) : t.Inv := by
  cases exec_ends he with
  | ordinary o => exact h.ordinary o
  | trap k d u _ _ e => subst e; exact .enter k h.memory
  | rti _ _ hr => exact h.returnFromTrap hr

/-- Settles O55: the boundary, an entry and an instruction each keep the invariant, and a step is made of these. -/
theorem stepKeepsInvariant : Obligations.StepKeepsInvariant := by
  intro s t h hstep
  rcases step_cases hstep with ⟨rfl, -⟩ | ⟨-, -, rfl⟩ | ⟨-, rfl⟩ | ⟨-, -, rfl⟩ | ⟨-, k, -, rfl⟩ |
    ⟨-, w, d, q, u, -, hexec, hend⟩
  · exact h.boundary
  · exact .enter _ h.memory
  · exact .enter _ h.memory
  · exact .enter _ h.memory
  · exact .enter _ h.memory
  · have hu : u.Inv := (h.boundary.withReads d q).exec hexec
    rcases hend with rfl | ⟨-, -, rfl⟩
    · exact hu
    · exact .enter _ hu.memory

/-! ### The one word that is RTI (R104) -/

/-- Only number 6 among the VOPs is RTI. -/
theorem decodeVop_rti {w : Word} (h : decodeVop w = .rti) : (bitField w 0 3).toNat = 6 := by
  unfold decodeVop at h
  split at h
  case h_7 => assumption
  all_goals cases h

theorem decodeZop_rti {w : Word} (h : decodeZop w = .rti) : (bitField w 3 3).toNat = 7 ∧ decodeVop w = .rti := by
  have hlt := (bitField w 3 3).isLt
  unfold decodeZop at h
  split at h
  case h_8 => exact ⟨by grind, h⟩
  all_goals cases h

theorem decodeYop_rti {w : Word} (h : decodeYop w = .rti) : (bitField w 6 3).toNat = 7 ∧ decodeZop w = .rti := by
  have hlt := (bitField w 6 3).isLt
  unfold decodeYop at h
  split at h
  case h_8 => exact ⟨by grind, h⟩
  all_goals cases h

theorem decodeXop_rti {w : Word} (h : decodeXop w = .rti) : (bitField w 9 3).toNat = 7 ∧ decodeYop w = .rti := by
  have hlt := (bitField w 9 3).isLt
  unfold decodeXop at h
  split at h
  case h_8 => exact ⟨by grind, h⟩
  all_goals cases h

theorem decodeBranch_ne_rti (w : Word) : decodeBranch w ≠ .rti := by
  unfold decodeBranch; split <;> simp

/-- A word that is RTI has opcode 111 and bit 12 set, and is RTI among the XOPs. -/
theorem decodeWord_rti_xop {w : Word} (h : decodeWord w = .rti) :
    (bitField w 13 3).toNat = 7 ∧ (bitField w 12 1).toNat = 1 ∧ decodeXop w = .rti := by
  have hop := (bitField w 13 3).isLt
  have hx := (bitField w 12 1).isLt
  unfold decodeWord at h
  split at h
  · cases h
  · split at h
    case h_7 => exact absurd h (decodeBranch_ne_rti w)
    case h_8 =>
      split at h
      · cases h
      · exact ⟨by grind, by grind, h⟩
    all_goals cases h

/-- RTI is the word 0xFFFE and no other: every field on the way down the decision tree is fixed. -/
theorem decodeWord_rti {w : Word} (h : decodeWord w = .rti) : w = 0xFFFE := by
  obtain ⟨h13, h12, hx⟩ := decodeWord_rti_xop h
  obtain ⟨h9, hy⟩ := decodeXop_rti hx
  obtain ⟨h6, hz⟩ := decodeYop_rti hy
  obtain ⟨h3, hv⟩ := decodeZop_rti hz
  have h0 := decodeVop_rti hv
  simp only [bitField, BitVec.extractLsb'_toNat, Nat.shiftRight_eq_div_pow] at h13 h12 h9 h6 h3 h0
  have hw := w.isLt
  apply BitVec.eq_of_toNat_eq
  show w.toNat = 65534
  omega

/-! ### The way from kernel mode to user mode -/

/-- An instruction that takes kernel mode to user mode is RTI returning from a trap. -/
theorem exec_kernel_to_user {i : Instr} {s t : State} (hs : s.mode = .kernel) (he : exec i s = .next t)
    (ht : t.mode = .user) : i = .rti ∧ s.returnFromTrap = .ok () t := by
  cases exec_ends he with
  | ordinary o => rw [o.mode, hs] at ht; cases ht
  | trap k d u _ _ e => rw [e, State.enter_mode] at ht; cases ht
  | rti hi _ hr => exact ⟨hi, hr⟩

/-- A step that takes kernel mode to user mode ran an instruction it fetched. -/
theorem step_kernel_to_user {s t : State} (hs : s.mode = .kernel) (hstep : step s = .next t) (ht : t.mode = .user) :
    ∃ w d q, s.boundary.fetch = .ok w { s.boundary with draws := d, deviceRefs := q } ∧
      exec (decodeWord w) { s.boundary with draws := d, deviceRefs := q } = .next t := by
  have noEntry : ∀ (u : State) (k : TrapKind), t ≠ u.enter k := fun u k e => by
    rw [e, State.enter_mode] at ht; cases ht
  rcases step_cases hstep with ⟨rfl, -⟩ | ⟨-, -, e⟩ | ⟨-, e⟩ | ⟨-, -, e⟩ | ⟨-, k, -, e⟩ |
    ⟨-, w, d, q, u, hfetch, hexec, rfl | ⟨-, -, e⟩⟩
  · rw [State.boundary_mode, hs] at ht; cases ht
  · exact absurd e (noEntry _ _)
  · exact absurd e (noEntry _ _)
  · exact absurd e (noEntry _ _)
  · exact absurd e (noEntry _ _)
  · exact ⟨w, d, q, hfetch, hexec⟩
  · exact absurd e (noEntry _ _)

/-- Settles O60: the step ran RTI, whose word is 0xFFFE, and its return went to user mode. -/
theorem userModeOnlyByRti : Obligations.UserModeOnlyByRti := by
  intro s t hs hstep ht
  obtain ⟨w, d, q, hfetch, hexec⟩ := step_kernel_to_user hs hstep ht
  obtain ⟨hi, hr⟩ := exec_kernel_to_user (s := { s.boundary with draws := d, deviceRefs := q }) hs hexec ht
  obtain rfl := decodeWord_rti hi
  rcases State.returnFromTrap_eq_ok hr with rfl | ⟨hisr, hctx, rfl⟩
  · cases ht
  · exact ⟨⟨_, hfetch⟩, hisr, rfl, rfl, hctx⟩

/-! ### A step that fetches (R262) -/

/-- Without the trace trap to come, the instruction's outcome is the step's. -/
theorem afterInstruction_unarmed {s : State} (h : s.armed = false) (o : Host.Outcome State Fault Refusal) :
    afterInstruction s o = o := by
  cases o <;> simp [afterInstruction, h]

theorem State.Fetches.step_eq {s : State} (h : s.Fetches) : step s = fetchAndRun s.boundary := by
  have hbefore : ¬(s.boundary.armed && decide (s.boundary.cfg.traceTiming = .before)) = true := by
    intro hb
    obtain ⟨harmed, hbefore⟩ := Bool.and_eq_true_iff.mp hb
    exact absurd ((h.notBefore harmed).symm.trans (of_decide_eq_true hbefore)) (by decide)
  unfold step stepOnce instructionStep
  rw [if_neg (by simp [h.running]), if_neg (by simp [h.noInterrupt]), State.boundary_bankOk, if_pos h.bank,
    if_neg hbefore]

/-- A fetch at an odd pc where MISALIGNED_PC is `fault` makes no reference (R76, D7). -/
theorem State.fetch_odd_fault {s : State} (hodd : s.pc.getLsbD 0 = true) (hcfg : s.cfg.misalignedPc = .fault) :
    s.fetch = .raise (.misaligned s.pc .fetch) s := by
  simp [State.fetch_eq, State.fetchPair, isEven_of_odd hodd, hcfg]

/-- Where MISALIGNED_PC is `ignoreBit0` the fetch is at the even address below (D7). -/
theorem State.fetch_odd_ignoreBit0 {s : State} {pa : PhysAddr} (hodd : s.pc.getLsbD 0 = true)
    (hcfg : s.cfg.misalignedPc = .ignoreBit0) (h : s.WordReaches (s.pc - 1) .fetch pa) :
    s.fetch = .ok (s.wordAt pa) s := by
  have hpair : s.fetchPair s.pc = .ok (pa, pa + 1) := by
    simp only [State.fetchPair, isEven_of_odd hodd, hcfg, clearBit0_odd hodd, State.alignedPair_ok h.reach]
    rfl
  rw [State.fetch_eq, hpair]
  exact State.readPair_storage h.low h.high

/-- Settles O52: the fetch is the trap, or it reads the word below and the step is that word's instruction. -/
theorem misalignedFetch : Obligations.MisalignedFetch := by
  intro s pa hf hodd
  rw [hf.step_eq]
  refine ⟨fun hcfg => ?_, fun hcfg hreach harmed => ?_⟩
  · rw [fetchAndRun, State.fetch_odd_fault (s := s.boundary) hodd hcfg]
    rfl
  · have hreach' : s.boundary.WordReaches (s.pc - 1) .fetch pa :=
      ⟨hreach.even, hreach.reach, hreach.low, hreach.high⟩
    rw [fetchAndRun, State.fetch_odd_ignoreBit0 (s := s.boundary) hodd hcfg hreach']
    exact afterInstruction_unarmed harmed _

end Sys2Proof.Machine
end

section
/-! PROOFS. Special-register space (spec/10_state.md R18..R36, spec/44_yop_special.md R180..R183): which register an
address reaches, what LSP reads and SSP writes there, and the addresses that trap or are refused. -/

namespace Sys2Proof.Machine

/-! ### The map by the address as a number (R18) -/

theorem sprAt_undefined : ∀ n < 6, 2 ≤ n → sprAt (BitVec.ofNat 7 n) = .undefined := by decide

theorem sprAt_reserved : ∀ n < 32, 12 ≤ n ∧ n ≤ 14 ∨ 24 ≤ n ∧ n ≤ 31 → sprAt (BitVec.ofNat 7 n) = .reserved := by decide

theorem sprAt_userReg : ∀ i : Fin 8, sprAt (BitVec.ofNat 7 (16 + i.val)) = .userReg i := by decide

theorem sprAt_userCode : ∀ i : Fin 16, sprAt (BitVec.ofNat 7 (32 + i.val)) = .userCode i := by decide

theorem sprAt_userData : ∀ i : Fin 16, sprAt (BitVec.ofNat 7 (48 + i.val)) = .userData i := by decide

theorem sprAt_kernCode : ∀ i : Fin 16, sprAt (BitVec.ofNat 7 (64 + i.val)) = .kernCode i := by decide

theorem sprAt_kernData : ∀ i : Fin 16, sprAt (BitVec.ofNat 7 (80 + i.val)) = .kernData i := by decide

theorem sprAt_io : ∀ n < 128, 96 ≤ n → sprAt (BitVec.ofNat 7 n) = .io (BitVec.ofNat 7 n) := by decide

/-! ### What an address reaches (R20) -/

/-- An address in reach, by its number. -/
theorem State.sprCheck_eq {s : State} {a : Word} {n : Nat} {r : Spr} (ha : a.toNat = n)
    (hn : n ≤ 7 ∨ s.mode = .kernel ∧ n ≤ 127) (hr : sprAt (BitVec.ofNat 7 n) = r) : s.sprCheck a = .ok r := by
  rw [State.sprCheck_low (ha ▸ hn), sprAt_setWidth ha, hr]

/-- Under `mask7` an address above 127 reaches what its low seven bits reach (R20, D13). -/
theorem State.sprCheck_mask7 {s : State} {a b : Word} (hm : s.mode = .kernel) (hcfg : s.cfg.sprAddrHigh = .mask7)
    (ha : 127 < a.toNat) (hb : b.toNat = a.toNat % 128) : s.sprCheck a = s.sprCheck b := by
  have hab : a.setWidth 7 = b.setWidth 7 := by
    apply BitVec.eq_of_toNat_eq
    rw [BitVec.toNat_setWidth, BitVec.toNat_setWidth, hb]
    omega
  rw [State.sprCheck_low (a := b) (.inr ⟨hm, by omega⟩), ← hab]
  simp [State.sprCheck, hm, hcfg, highAddress, Except.map, Nat.not_le.mpr ha]

theorem State.sprCheck_high_illegal {s : State} {a : Word} (hm : s.mode = .kernel)
    (hcfg : s.cfg.sprAddrHigh = .illegal) (ha : 127 < a.toNat) : s.sprCheck a = .error .illegalInstruction := by
  simp [State.sprCheck, hm, hcfg, highAddress, Except.map, Nat.not_le.mpr ha]

/-! ### The four instructions, by what their address reaches (R180..R183) -/

theorem exec_lsp_reach {s : State} {rA rB : Reg} {r : Spr} (h : s.sprCheck (s.reg rB) = .ok r) :
    exec (.lsp rA rB) s = ((s.sprRead r).intoReg rA).run := by
  simp only [exec, execLsp, h, State.checked_ok]

theorem exec_ssp_reach {s : State} {rA rB : Reg} {r : Spr} (h : s.sprCheck (s.reg rB) = .ok r) :
    exec (.ssp rA rB) s = (s.sprWrite r (s.reg rA)).thenAdvance.run := by
  simp only [exec, execSsp, h, State.checked_ok]

theorem exec_lsi_reach {s : State} {rA rB : Reg} {r : Spr} (h : s.sprCheck (s.reg rA) = .ok r) :
    exec (.lsi rA rB) s =
      ((s.readWord (s.reg rB) .dataRead).bind fun v s1 => (s1.sprWrite r v).thenAdvance).run := by
  simp only [exec, execLsi, h, State.checked_ok]

theorem exec_ssi_reach {s : State} {rA rB : Reg} {r : Spr} (h : s.sprCheck (s.reg rA) = .ok r) :
    exec (.ssi rA rB) s = (s.storeSpecial r (s.reg rB)).thenAdvance.run := by
  simp only [exec, execSsi, h, State.checked_ok]

/-- The address check comes before every other effect of LSP and SSP. -/
theorem exec_lsp_ssp_illegal {s : State} {rB : Reg} (rA : Reg)
    (h : s.sprCheck (s.reg rB) = .error .illegalInstruction) :
    exec (.lsp rA rB) s = .next (s.enter .illegalInstruction) ∧
      exec (.ssp rA rB) s = .next (s.enter .illegalInstruction) := by
  simp [exec, execLsp, execSsp, h]

/-- The address check comes before every other effect of LSI and SSI. -/
theorem exec_lsi_ssi_illegal {s : State} {rA : Reg} (rB : Reg)
    (h : s.sprCheck (s.reg rA) = .error .illegalInstruction) :
    exec (.lsi rA rB) s = .next (s.enter .illegalInstruction) ∧
      exec (.ssi rA rB) s = .next (s.enter .illegalInstruction) := by
  simp [exec, execLsi, execSsi, h]

/-- LSP and SSP use the address only for what it reaches. -/
theorem exec_lsp_ssp_congr {s : State} {rB q : Reg} (rA : Reg) (h : s.sprCheck (s.reg rB) = s.sprCheck (s.reg q)) :
    exec (.lsp rA rB) s = exec (.lsp rA q) s ∧ exec (.ssp rA rB) s = exec (.ssp rA q) s := by
  simp only [exec, execLsp, execSsp, h, and_self]

/-- LSI and SSI use the special-register address only for what it reaches. -/
theorem exec_lsi_ssi_congr {s : State} {rA q : Reg} (rB : Reg) (h : s.sprCheck (s.reg rA) = s.sprCheck (s.reg q)) :
    exec (.lsi rA rB) s = exec (.lsi q rB) s ∧ exec (.ssi rA rB) s = exec (.ssi q rB) s := by
  simp only [exec, execLsi, execSsi, h, and_self]

/-- Settles O36: the address check fails, and nothing comes before it. -/
theorem userSpecialAccessIsIllegal : Obligations.UserSpecialAccessIsIllegal := by
  intro rA rB s hm
  exact ⟨fun h => exec_lsp_ssp_illegal rA (State.sprCheck_illegal hm h),
    fun h => exec_lsi_ssi_illegal rB (State.sprCheck_illegal hm h)⟩

/-- Settles O37: under `mask7` both addresses reach the same register, under `illegal` the check fails. -/
theorem highSpecialAddress : Obligations.HighSpecialAddress := by
  intro rA rB q s hm
  exact ⟨fun ha => ⟨fun hcfg hq => exec_lsp_ssp_congr rA (State.sprCheck_mask7 hm hcfg ha hq),
      fun hcfg => exec_lsp_ssp_illegal rA (State.sprCheck_high_illegal hm hcfg ha)⟩,
    fun ha => ⟨fun hcfg hq => exec_lsi_ssi_congr rB (State.sprCheck_mask7 hm hcfg ha hq),
      fun hcfg => exec_lsi_ssi_illegal rB (State.sprCheck_high_illegal hm hcfg ha)⟩⟩

/-! ### LSP (R180) -/

/-- A register that holds a value is reached and read without any other effect. -/
theorem State.SpecialHolds.sprRead {s : State} {a v : Word} {n : Nat} (ha : a.toNat = n) (h : s.SpecialHolds n v) :
    ∃ r, s.sprCheck a = .ok r ∧ s.sprRead r = .ok v s := by
  cases h with
  | link => exact ⟨.link, State.sprCheck_eq ha (.inl (by decide)) rfl, rfl⟩
  | cycleLow => exact ⟨.cycleLow, State.sprCheck_eq ha (.inl (by decide)) rfl, rfl⟩
  | cycleHigh => exact ⟨.cycleHigh, State.sprCheck_eq ha (.inl (by decide)) rfl, rfl⟩
  | irr hm => exact ⟨.irr, State.sprCheck_eq ha (.inr ⟨hm, by decide⟩) rfl, rfl⟩
  | icr hm => exact ⟨.icr, State.sprCheck_eq ha (.inr ⟨hm, by decide⟩) rfl, rfl⟩
  | idr hm => exact ⟨.idr, State.sprCheck_eq ha (.inr ⟨hm, by decide⟩) rfl, rfl⟩
  | isr hm => exact ⟨.isr, State.sprCheck_eq ha (.inr ⟨hm, by decide⟩) rfl, rfl⟩
  | context hm => exact ⟨.context, State.sprCheck_eq ha (.inr ⟨hm, by decide⟩) rfl, rfl⟩
  | userReg i hm hc =>
    exact ⟨.userReg i, State.sprCheck_eq ha (.inr ⟨hm, by omega⟩) (sprAt_userReg i), if_pos hc⟩
  | userCode i hm hc =>
    exact ⟨.userCode i, State.sprCheck_eq ha (.inr ⟨hm, by omega⟩) (sprAt_userCode i), if_pos hc⟩
  | userData i hm hc =>
    exact ⟨.userData i, State.sprCheck_eq ha (.inr ⟨hm, by omega⟩) (sprAt_userData i), if_pos hc⟩
  | kernCode i hm => exact ⟨.kernCode i, State.sprCheck_eq ha (.inr ⟨hm, by omega⟩) (sprAt_kernCode i), rfl⟩
  | kernData i hm => exact ⟨.kernData i, State.sprCheck_eq ha (.inr ⟨hm, by omega⟩) (sprAt_kernData i), rfl⟩

/-- I/O address `n` is another than the address `b` of a UART register. -/
theorem ofNat_ne_of_ne_toNat {n : Nat} {b : BitVec 7} (hn : n ≤ 127) (h : n ≠ b.toNat) : BitVec.ofNat 7 n ≠ b := by
  rintro rfl
  exact h (by rw [BitVec.toNat_ofNat]; omega)

/-- A register whose read is undefined is reached, and its read is a free value. -/
theorem State.SpecialUndefined.sprRead {s : State} {a : Word} (h : s.SpecialUndefined a.toNat) :
    ∃ r, s.sprCheck a = .ok r ∧ s.sprRead r = s.readAny := by
  rcases h with h | ⟨hm, h | h | ⟨hlo, hhi, hne⟩⟩
  · exact ⟨.undefined, State.sprCheck_eq rfl (.inl (by omega)) (sprAt_undefined _ (by omega) h.1), rfl⟩
  · exact ⟨.reserved, State.sprCheck_eq rfl (.inr ⟨hm, by omega⟩) (sprAt_reserved _ (by omega) (.inl h)), rfl⟩
  · exact ⟨.reserved, State.sprCheck_eq rfl (.inr ⟨hm, by omega⟩) (sprAt_reserved _ (by omega) (.inr h)), rfl⟩
  · exact ⟨.io _, State.sprCheck_eq rfl (.inr ⟨hm, hhi⟩) (sprAt_io _ (by omega) hlo),
      (s.ioRead_eq _).trans (if_neg (ofNat_ne_of_ne_toNat hhi hne))⟩

/-- LSP of a register whose read leaves the state `s`, but for draws, as it was. -/
theorem exec_lsp_loaded {s : State} {rA rB : Reg} {r : Spr} {v : Word} {d : Nat} (hok : s.bankOk = true)
    (hr : s.sprCheck (s.reg rB) = .ok r) (hv : s.sprRead r = .ok v { s with draws := d }) :
    ∃ t, exec (.lsp rA rB) s = .next t ∧ s.Loaded t rA v := by
  rw [exec_lsp_reach hr, hv]
  exact ⟨_, rfl, (State.setReg_loaded (s := { s with draws := d }) hok rA v).of_draws⟩

/-- Bits 3:0 of the flags word, and in kernel mode its bits 9:8 (R23). -/
theorem State.flagsWord_bits (s : State) :
    s.flagsWord.getLsbD 0 = s.flags.c ∧ s.flagsWord.getLsbD 1 = s.flags.z ∧ s.flagsWord.getLsbD 2 = s.flags.n ∧
      s.flagsWord.getLsbD 3 = s.flags.v ∧
      (s.mode = .kernel → s.flagsWord.getLsbD 8 = s.trap ∧ s.flagsWord.getLsbD 9 = s.ie) := by
  obtain ⟨hc, hz, hn, hv⟩ := flagBits_lsb s.flags
  unfold State.flagsWord
  cases hm : s.mode with
  | user =>
    have low : ∀ k < 4, (userFlagsWord s.flags s.anyWord).getLsbD k = (flagBits s.flags).getLsbD k := fun k =>
      userFlagsWord_lsb s.flags s.anyWord
    exact ⟨(low 0 (by decide)).trans hc, (low 1 (by decide)).trans hz, (low 2 (by decide)).trans hn,
      (low 3 (by decide)).trans hv, fun h => by cases h⟩
  | kernel =>
    obtain ⟨low, ht, hie⟩ := kernelFlagsWord_lsb s.flags s.trap s.ie s.anyWord
    exact ⟨(low 0 (by decide)).trans hc, (low 1 (by decide)).trans hz, (low 2 (by decide)).trans hn,
      (low 3 (by decide)).trans hv, fun _ => ⟨ht, hie⟩⟩

/-- Settles O29: each register is reached, and its read is the value it holds, a free one, or the flags word. -/
theorem lspReads : Obligations.LspReads := by
  intro rA rB s hok
  refine ⟨fun v h => ?_, fun h => ?_, fun ha => ?_⟩
  · obtain ⟨r, hr, hv⟩ := h.sprRead rfl
    exact exec_lsp_loaded hok hr hv
  · obtain ⟨r, hr, hv⟩ := h.sprRead
    obtain ⟨t, ht⟩ := exec_lsp_loaded (rA := rA) hok hr hv
    exact ⟨t, s.anyWord, ht⟩
  · have hr : s.sprCheck (s.reg rB) = .ok .flags := State.sprCheck_eq ha (.inl (by decide)) rfl
    obtain ⟨t, hexec, hload⟩ := exec_lsp_loaded (rA := rA) hok hr rfl
    exact ⟨t, s.flagsWord, hexec, hload, s.flagsWord_bits⟩

/-! ### SSP to LINK and FLAGS (R22, R23) -/

/-- Writing the flags of the current bank computes nothing else: the result goes to register 0. -/
theorem State.setFlags_computed {s : State} (h : s.bankOk = true) (f : Flags) :
    s.Computed (s.setFlags f).advance 0 0 where
  pc := rfl
  value := fun h0 => absurd rfl h0
  frame :=
    { singletons := ⟨rfl, rfl, rfl, rfl, rfl, rfl, rfl, rfl, rfl, rfl, rfl, rfl, rfl, rfl, rfl⟩
      otherBanks := fun _ hd => s.bankAt_setFlags_other f hd
      memory := fun _ => rfl
      mmu := ⟨State.cmmu_setFlags h f, State.dmmu_setFlags h f⟩
      regs := fun q _ => State.reg_setFlags h f q
      link := State.link_setFlags h f }

/-- What a write of the flags word leaves: the flags of bits 3:0, t in kernel mode, nothing else. -/
theorem State.writeFlagsWord_frame {s : State} (h : s.bankOk = true) (v : Word) :
    (s.writeFlagsWord v).flags = flagsOfWord v ∧
      (s.writeFlagsWord v).trap = (if s.mode = .kernel then v.getLsbD 8 else s.trap) ∧
      s.Computed { (s.writeFlagsWord v).advance with trap := s.trap } 0 0 := by
  have hcomputed := State.setFlags_computed h (flagsOfWord v)
  have hflags := State.flags_setFlags h (flagsOfWord v)
  unfold State.writeFlagsWord
  cases hm : s.mode with
  | user => exact ⟨hflags, rfl, hcomputed⟩
  | kernel => exact ⟨hflags, rfl, hcomputed⟩

/-- Settles O30: address 0 reaches LINK, which is destination field 0 of R14, and address 1 the flags word. -/
theorem sspLinkAndFlags : Obligations.SspLinkAndFlags := by
  intro rA rB s hok
  refine ⟨fun ha => ?_, fun ha => ?_⟩
  · obtain ⟨hlink, hflags⟩ := State.setRegOrLink_computed hok 0 (s.reg rA) (s.pc + 2)
    rw [exec_ssp_reach (State.sprCheck_eq ha (.inl (by decide)) rfl)]
    exact ⟨_, rfl, rfl, hflags, hlink⟩
  · obtain ⟨hflags, htrap, hframe⟩ := State.writeFlagsWord_frame hok (s.reg rA)
    rw [exec_ssp_reach (State.sprCheck_eq ha (.inl (by decide)) rfl)]
    exact ⟨_, rfl, hflags, htrap, hframe⟩

/-! ### SSP to the singletons, and ignored writes (R24..R31) -/

/-- A register whose writes are ignored is reached, and its write does nothing. -/
theorem State.SpecialIgnored.sprWrite {s : State} {a : Word} (h : s.SpecialIgnored a.toNat) :
    ∃ r, s.sprCheck a = .ok r ∧ ∀ v, s.sprWrite r v = .ok () s := by
  rcases h with h | ⟨hm, h | h | h | h | ⟨hlo, hhi, hne⟩⟩
  · have hn : a.toNat < 6 ∨ a.toNat = 6 ∨ a.toNat = 7 := by omega
    rcases hn with hn | hn | hn
    · exact ⟨.undefined, State.sprCheck_eq rfl (.inl h.2) (sprAt_undefined _ hn h.1), fun _ => rfl⟩
    · exact ⟨.cycleLow, State.sprCheck_eq hn (.inl (by decide)) rfl, fun _ => rfl⟩
    · exact ⟨.cycleHigh, State.sprCheck_eq hn (.inl (by decide)) rfl, fun _ => rfl⟩
  · exact ⟨.icr, State.sprCheck_eq h (.inr ⟨hm, by decide⟩) rfl, fun _ => rfl⟩
  · exact ⟨.idr, State.sprCheck_eq h (.inr ⟨hm, by decide⟩) rfl, fun _ => rfl⟩
  · exact ⟨.reserved, State.sprCheck_eq rfl (.inr ⟨hm, by omega⟩) (sprAt_reserved _ (by omega) (.inl h)), fun _ => rfl⟩
  · exact ⟨.reserved, State.sprCheck_eq rfl (.inr ⟨hm, by omega⟩) (sprAt_reserved _ (by omega) (.inr h)), fun _ => rfl⟩
  · exact ⟨.io _, State.sprCheck_eq rfl (.inr ⟨hm, hhi⟩) (sprAt_io _ (by omega) hlo), fun v =>
      congrArg (Res.ok ()) ((s.ioWrite_eq _ v).trans (if_neg (ofNat_ne_of_ne_toNat hhi hne)))⟩

/-- SSP of a register whose write of `x[rA]` ends in `t`. -/
theorem exec_ssp_written {s t : State} {rA rB : Reg} {r : Spr} (hr : s.sprCheck (s.reg rB) = .ok r)
    (hw : s.sprWrite r (s.reg rA) = .ok () t) : exec (.ssp rA rB) s = .next t.advance := by
  rw [exec_ssp_reach hr, hw]
  rfl

/-- Settles O31: each address reaches a register whose write is its one field, or nothing. -/
theorem sspSingletons : Obligations.SspSingletons := by
  intro rA rB s
  refine ⟨fun h => ?_, fun hm => ⟨fun ha => ?_, fun ha => ?_, fun ha => ?_⟩⟩
  · obtain ⟨r, hr, hw⟩ := h.sprWrite
    exact exec_ssp_written hr (hw _)
  · exact exec_ssp_written (State.sprCheck_eq ha (.inr ⟨hm, by decide⟩) (r := .irr) rfl) rfl
  · exact exec_ssp_written (State.sprCheck_eq ha (.inr ⟨hm, by decide⟩) (r := .isr) rfl) rfl
  · exact exec_ssp_written (State.sprCheck_eq ha (.inr ⟨hm, by decide⟩) (r := .context) rfl) rfl

/-! ### SSP to the registers of a context (R32..R34) -/

/-- SSP of a register of context `c`: that context is put, nothing else changes. -/
theorem exec_ssp_bank {s : State} {rA rB : Reg} {r : Spr} {c : Nat} {b : Bank} (hc : c < s.cfg.nctx)
    (hr : s.sprCheck (s.reg rB) = .ok r) (hw : s.sprWrite r (s.reg rA) = .ok () (s.setBankAt c b)) :
    ∃ t, exec (.ssp rA rB) s = .next t ∧ t.pc = s.pc + 2 ∧ s.OnlyBank t c ∧ t.bankAt c = b :=
  ⟨_, exec_ssp_written hr hw, rfl,
    ⟨⟨rfl, rfl, rfl, rfl, rfl, rfl, rfl, rfl, rfl, rfl, rfl, rfl, rfl, rfl, rfl⟩,
      fun _ hd => s.bankAt_setBankAt_other b hd, fun _ => rfl⟩,
    s.bankAt_setBankAt_same b hc⟩

/-- The kernel's context exists. -/
theorem State.nctx_pos (s : State) : 0 < s.cfg.nctx := by
  unfold Config.nctx; omega

/-- Settles O32: each address reaches one register, whose write puts the one bank it stands in. -/
theorem sspContextRegisters : Obligations.SspContextRegisters := by
  intro rA rB s hm
  refine ⟨fun hc => ⟨fun i ha => ?_, fun i ha => ?_, fun i ha => ?_⟩, fun i ha => ?_, fun i ha => ?_⟩
  · have hr : s.sprCheck (s.reg rB) = .ok (.userReg i) :=
      State.sprCheck_eq ha (.inr ⟨hm, by omega⟩) (sprAt_userReg i)
    exact ⟨(s.bankAt s.context.toNat).setReg i (s.reg rA), exec_ssp_bank hc hr (if_pos hc),
      Bank.reg_setReg_same _ _, fun j => Bank.reg_setReg_other _ _, Bank.setReg_link _ _ _, Bank.setReg_flags _ _ _,
      Bank.setReg_cmmu _ _ _, Bank.setReg_dmmu _ _ _⟩
  · exact exec_ssp_bank hc (State.sprCheck_eq ha (.inr ⟨hm, by omega⟩) (sprAt_userCode i)) (if_pos hc)
  · exact exec_ssp_bank hc (State.sprCheck_eq ha (.inr ⟨hm, by omega⟩) (sprAt_userData i)) (if_pos hc)
  · exact exec_ssp_bank s.nctx_pos (State.sprCheck_eq ha (.inr ⟨hm, by omega⟩) (sprAt_kernCode i)) rfl
  · exact exec_ssp_bank s.nctx_pos (State.sprCheck_eq ha (.inr ⟨hm, by omega⟩) (sprAt_kernData i)) rfl

/-! ### A CONTEXT that names no context (R12, R31) -/

/-- The registers of the context that CONTEXT names (R32, R33). -/
def Spr.ofContext : Spr → Bool
  | .userReg _ => true
  | .userCode _ => true
  | .userData _ => true
  | _ => false

theorem sprAt_ofContext :
    ∀ n < 64, 16 ≤ n ∧ n ≤ 23 ∨ 32 ≤ n ∧ n ≤ 63 → (sprAt (BitVec.ofNat 7 n)).ofContext = true := by decide

theorem State.withContext_refuse {α : Type} {s : State} (h : s.cfg.nctx ≤ s.context.toNat) (f : Nat → Res α) :
    s.withContext f = .refuse .contextOutOfRange := if_neg (Nat.not_lt.mpr h)

theorem State.sprRead_refuse {s : State} {r : Spr} (hr : r.ofContext = true) (h : s.cfg.nctx ≤ s.context.toNat) :
    s.sprRead r = .refuse .contextOutOfRange := by
  cases r with
  | userReg i => simp only [State.sprRead, State.withContext_refuse h]
  | userCode i => simp only [State.sprRead, State.withContext_refuse h]
  | userData i => simp only [State.sprRead, State.withContext_refuse h]
  | _ => cases hr

theorem State.sprWrite_refuse {s : State} {r : Spr} (hr : r.ofContext = true) (h : s.cfg.nctx ≤ s.context.toNat)
    (v : Word) : s.sprWrite r v = .refuse .contextOutOfRange := by
  cases r with
  | userReg i => simp only [State.sprWrite, State.withContext_refuse h]
  | userCode i => simp only [State.sprWrite, State.withContext_refuse h]
  | userData i => simp only [State.sprWrite, State.withContext_refuse h]
  | _ => cases hr

/-- In kernel mode addresses 16..23 and 32..63 reach the registers of a context. -/
theorem State.sprCheck_ofContext {s : State} {a : Word} (hm : s.mode = .kernel)
    (ha : 16 ≤ a.toNat ∧ a.toNat ≤ 23 ∨ 32 ≤ a.toNat ∧ a.toNat ≤ 63) :
    ∃ r, s.sprCheck a = .ok r ∧ r.ofContext = true :=
  ⟨_, State.sprCheck_eq rfl (.inr ⟨hm, by omega⟩) rfl, sprAt_ofContext _ (by omega) ha⟩

theorem State.readPhys_completes (s : State) (pa : PhysAddr) : ∃ b t, s.readPhys pa = .ok b t := by
  unfold State.readPhys
  split <;> exact ⟨_, _, rfl⟩

/-- Once checked, a word's references complete. -/
theorem State.readPair_completes (s : State) (p : PhysAddr × PhysAddr) : ∃ v t, s.readPair p = .ok v t := by
  unfold State.readPair
  split
  · exact ⟨_, _, rfl⟩
  · obtain ⟨lo, s1, hlo⟩ := s.readPhys_completes p.1
    obtain ⟨hi, s2, hhi⟩ := s1.readPhys_completes p.2
    rw [hlo, Res.bind_ok, hhi]
    exact ⟨_, _, rfl⟩

/-- A word read at an even address that translates completes, and changes draws and the devices' record at most. -/
theorem State.readWord_completes {s : State} {va : Word} {acc : Access} {pa : PhysAddr} (he : va.getLsbD 0 = false)
    (h : s.Reaches va acc pa) : ∃ v d q, s.readWord va acc = .ok v { s with draws := d, deviceRefs := q } := by
  obtain ⟨v, t, hv⟩ := s.readPair_completes (pa, pa + 1)
  have hread : s.readWord va acc = .ok v t := by
    rw [State.readWord, State.wordPair_even (isEven_of he), State.alignedPair_ok h, State.checked_ok, hv]
  obtain ⟨d, q, rfl⟩ := State.readWord_eq_ok hread
  exact ⟨v, d, q, hread⟩

theorem exec_lsp_ssp_refused {s : State} {rB : Reg} (rA : Reg) (hm : s.mode = .kernel)
    (hc : s.cfg.nctx ≤ s.context.toNat)
    (ha : 16 ≤ (s.reg rB).toNat ∧ (s.reg rB).toNat ≤ 23 ∨ 32 ≤ (s.reg rB).toNat ∧ (s.reg rB).toNat ≤ 63) :
    exec (.lsp rA rB) s = .refused .contextOutOfRange ∧ exec (.ssp rA rB) s = .refused .contextOutOfRange := by
  obtain ⟨r, hr, hctx⟩ := State.sprCheck_ofContext hm ha
  rw [exec_lsp_reach hr, exec_ssp_reach hr, State.sprRead_refuse hctx hc, State.sprWrite_refuse hctx hc]
  exact ⟨rfl, rfl⟩

/-- LSI reads its word, then the register it would write is refused. -/
theorem exec_lsi_refused {s : State} {rA rB : Reg} {r : Spr} {pa : PhysAddr} (hr : s.sprCheck (s.reg rA) = .ok r)
    (hctx : r.ofContext = true) (hc : s.cfg.nctx ≤ s.context.toNat) (he : (s.reg rB).getLsbD 0 = false)
    (h : s.Reaches (s.reg rB) .dataRead pa) : exec (.lsi rA rB) s = .refused .contextOutOfRange := by
  obtain ⟨v, d, q, hread⟩ := State.readWord_completes he h
  have hwrite := State.sprWrite_refuse (s := { s with draws := d, deviceRefs := q }) hctx hc v
  rw [exec_lsi_reach hr, hread, Res.bind_ok, hwrite]
  rfl

/-- SSI checks its store, then the register it would read is refused. -/
theorem exec_ssi_refused {s : State} {rA rB : Reg} {r : Spr} {pa : PhysAddr} (hr : s.sprCheck (s.reg rA) = .ok r)
    (hctx : r.ofContext = true) (hc : s.cfg.nctx ≤ s.context.toNat) (he : (s.reg rB).getLsbD 0 = false)
    (h : s.Reaches (s.reg rB) .dataWrite pa) : exec (.ssi rA rB) s = .refused .contextOutOfRange := by
  have hpair : s.wordPair (s.reg rB) .dataWrite = .ok (pa, pa + 1) :=
    (State.wordPair_even (isEven_of he)).trans (State.alignedPair_ok h)
  rw [exec_ssi_reach hr, State.storeSpecial, hpair, State.sprRead_refuse hctx hc]
  rfl

/-- User mode has no meaning with CONTEXT 0 or naming no context (R12). -/
theorem State.bankOk_user_false {s : State} (hm : s.mode = .user)
    (hc : s.context.toNat = 0 ∨ s.cfg.nctx ≤ s.context.toNat) : s.bankOk = false := by
  have hok : s.bankOk = s.userContextOk := by rw [State.bankOk, hm]
  rw [hok, State.userContextOk, Bool.and_eq_false_iff, decide_eq_false_iff_not, decide_eq_false_iff_not]
  omega

theorem step_refused {s : State} (hrun : s.halted = false) (hirq : s.interrupted = false) (hb : s.bankOk = false) :
    step s = .refused .userContext := by
  simp [step, stepOnce, instructionStep, hrun, hirq, hb]

/-- Settles O38: the register's read and write are refused once what is checked before them holds; a step in user mode
is refused at its boundary. -/
theorem unknownContextIsRefused : Obligations.UnknownContextIsRefused := by
  intro rA rB s pa
  refine ⟨fun hm hc => ⟨fun ha => exec_lsp_ssp_refused rA hm hc ha, fun ha he => ?_⟩,
    fun hm hrun hirq hc => step_refused hrun hirq (State.bankOk_user_false hm hc)⟩
  obtain ⟨r, hr, hctx⟩ := State.sprCheck_ofContext hm ha
  exact ⟨exec_lsi_refused hr hctx hc he, exec_ssi_refused hr hctx hc he⟩

end Sys2Proof.Machine
end

section
/-! PROOFS. Loads and stores (spec/20_memory.md R63..R83, spec/40_load_store.md R130..R133): what each does once its two
bytes are placed or its check fails, page faults, odd addresses, a load after a store, ROM and unpopulated addresses. -/

namespace Sys2Proof.Machine

/-! ### Loads and stores, by where their bytes stand or the trap of their check (R130..R133, R184) -/

section LoadsAndStores

variable {s : State} {rA rB : Reg} {imm7 : BitVec 7} {k : TrapKind} {lo hi : PhysAddr}

theorem exec_ldw (rA rB : Reg) (imm7 : BitVec 7) (s : State) :
    exec (.ldw rA rB imm7) s = ((s.readWord (s.reg rB + BitVec.ofInt 16 imm7.toInt) .dataRead).intoReg rA).run := by
  rw [← State.effectiveAddress_eq]; rfl

theorem exec_ldb (rA rB : Reg) (imm7 : BitVec 7) (s : State) :
    exec (.ldb rA rB imm7) s =
      (((s.readByte (s.reg rB + BitVec.ofInt 16 imm7.toInt)).bind fun b t => .ok (sext8 b) t).intoReg rA).run := by
  rw [← State.effectiveAddress_eq]; rfl

theorem exec_stw (rA rB : Reg) (imm7 : BitVec 7) (s : State) :
    exec (.stw rA rB imm7) s =
      (s.writeWord (s.reg rB + BitVec.ofInt 16 imm7.toInt) (s.reg rA)).thenAdvance.run := by
  rw [← State.effectiveAddress_eq]; rfl

theorem exec_stb (rA rB : Reg) (imm7 : BitVec 7) (s : State) :
    exec (.stb rA rB imm7) s =
      (s.writeByte (s.reg rB + BitVec.ofInt 16 imm7.toInt) (lowByte (s.reg rA))).thenAdvance.run := by
  rw [← State.effectiveAddress_eq]; rfl

theorem exec_lcw (rA rB : Reg) (s : State) :
    exec (.lcw rA rB) s = ((s.readWord (s.reg rB) .codeRead).intoReg rA).run := rfl

/-! A check that fails: the trap, with nothing done. -/

theorem exec_ldw_trap (h : s.wordPair (s.reg rB + BitVec.ofInt 16 imm7.toInt) .dataRead = .error k) :
    exec (.ldw rA rB imm7) s = .next (s.enter k) := by
  simp [exec_ldw, State.readWord, h]

theorem exec_ldb_trap (h : s.translate (s.reg rB + BitVec.ofInt 16 imm7.toInt) .dataRead = .error k) :
    exec (.ldb rA rB imm7) s = .next (s.enter k) := by
  simp [exec_ldb, State.readByte, h]

theorem exec_stw_trap (h : s.wordPair (s.reg rB + BitVec.ofInt 16 imm7.toInt) .dataWrite = .error k) :
    exec (.stw rA rB imm7) s = .next (s.enter k) := by
  simp [exec_stw, State.writeWord, h]

theorem exec_stb_trap (h : s.translate (s.reg rB + BitVec.ofInt 16 imm7.toInt) .dataWrite = .error k) :
    exec (.stb rA rB imm7) s = .next (s.enter k) := by
  simp [exec_stb, State.writeByte, h]

theorem exec_lcw_trap (h : s.wordPair (s.reg rB) .codeRead = .error k) :
    exec (.lcw rA rB) s = .next (s.enter k) := by
  simp [exec_lcw, State.readWord, h]

/-- LSI's memory check follows the check of its special register (R181). -/
theorem exec_lsi_trap (hreach : (s.reg rA).toNat ≤ 7 ∨ s.mode = .kernel ∧ (s.reg rA).toNat ≤ 127)
    (h : s.wordPair (s.reg rB) .dataRead = .error k) : exec (.lsi rA rB) s = .next (s.enter k) := by
  simp [exec_lsi_reach (State.sprCheck_low hreach), State.readWord, h]

/-! A check that passes. -/

/-- A load whose reference gave `v`, at the cost of draws at most. -/
theorem Res.intoReg_loaded {m : Res Word} {v : Word} {d : Nat} (hok : s.bankOk = true) (rA : Reg)
    (h : m = .ok v { s with draws := d }) : ∃ t, (m.intoReg rA).run = .next t ∧ s.Loaded t rA v := by
  subst h
  exact ⟨_, rfl, (State.setReg_loaded (s := { s with draws := d }) hok rA v).of_draws⟩

/-- The two bytes of an aligned word (R65). -/
theorem State.wordPair_aligned {va : Word} {acc : Access} {pa : PhysAddr} (he : va.getLsbD 0 = false)
    (h : s.Reaches va acc pa) : s.wordPair va acc = .ok (pa, pa + 1) :=
  (State.wordPair_even (isEven_of he)).trans (State.alignedPair_ok h)

theorem State.readWord_pair {va : Word} {acc : Access} (hpair : s.wordPair va acc = .ok (lo, hi))
    (hlo : s.IsStorage lo) (hhi : s.IsStorage hi) : s.readWord va acc = .ok (s.byteAt hi ++ s.byteAt lo) s := by
  rw [State.readWord, hpair, State.checked_ok, State.readPair_storage hlo hhi]

theorem exec_ldw_loaded (hok : s.bankOk = true)
    (hpair : s.wordPair (s.reg rB + BitVec.ofInt 16 imm7.toInt) .dataRead = .ok (lo, hi)) (hlo : s.IsStorage lo)
    (hhi : s.IsStorage hi) :
    ∃ t, exec (.ldw rA rB imm7) s = .next t ∧ s.Loaded t rA (s.byteAt hi ++ s.byteAt lo) := by
  rw [exec_ldw]
  exact Res.intoReg_loaded hok rA (State.readWord_pair hpair hlo hhi)

theorem exec_lcw_loaded (hok : s.bankOk = true) (hpair : s.wordPair (s.reg rB) .codeRead = .ok (lo, hi))
    (hlo : s.IsStorage lo) (hhi : s.IsStorage hi) :
    ∃ t, exec (.lcw rA rB) s = .next t ∧ s.Loaded t rA (s.byteAt hi ++ s.byteAt lo) := by
  rw [exec_lcw]
  exact Res.intoReg_loaded hok rA (State.readWord_pair hpair hlo hhi)

theorem exec_stw_stored (hw : Memory.wf s.mem = true)
    (hpair : s.wordPair (s.reg rB + BitVec.ofInt 16 imm7.toInt) .dataWrite = .ok (lo, hi)) (hne : hi ≠ lo)
    (hlo : s.IsRam lo) (hhi : s.IsRam hi) :
    ∃ t, exec (.stw rA rB imm7) s = .next t ∧ s.StoredWord t lo hi (s.reg rA) := by
  rw [exec_stw, State.writeWord, hpair, State.checked_ok, State.writePair_ram hlo hhi]
  exact ⟨_, rfl, State.storedWord hw hne _⟩

/-- SSI once its store is checked: the special register is read, its value stored (R183). -/
theorem State.storeSpecial_ok {ea : Word} {p : PhysAddr × PhysAddr} (r : Spr) (h : s.wordPair ea .dataWrite = .ok p) :
    s.storeSpecial r ea = (s.sprRead r).bind fun v t => .ok () (t.writePair p v) := by
  simp only [State.storeSpecial, h]

theorem State.storeSpecial_error {ea : Word} (r : Spr) (h : s.wordPair ea .dataWrite = .error k) :
    s.storeSpecial r ea = .raise k (s.maybeDiscardedRead r) := by
  simp only [State.storeSpecial, h]

/-- SSI of a register that holds a value stores it as STW would. -/
theorem exec_ssi_stored {v : Word} (hw : Memory.wf s.mem = true) (hv : s.SpecialHolds (s.reg rA).toNat v)
    (hpair : s.wordPair (s.reg rB) .dataWrite = .ok (lo, hi)) (hne : hi ≠ lo) (hlo : s.IsRam lo) (hhi : s.IsRam hi) :
    ∃ t, exec (.ssi rA rB) s = .next t ∧ s.StoredWord t lo hi v := by
  obtain ⟨r, hr, hread⟩ := hv.sprRead rfl
  rw [exec_ssi_reach hr, State.storeSpecial_ok r hpair, hread, Res.bind_ok, State.writePair_ram hlo hhi]
  exact ⟨_, rfl, State.storedWord hw hne v⟩

/-- LSI of a word that storage gives: what SSP does with it, and at address 0 the write of LINK. -/
theorem exec_lsi_writes (hok : s.bankOk = true) (hpair : s.wordPair (s.reg rB) .dataRead = .ok (lo, hi))
    (hlo : s.IsStorage lo) (hhi : s.IsStorage hi) :
    ((s.reg rA).toNat = 0 → ∃ t, exec (.lsi rA rB) s = .next t ∧ t.pc = s.pc + 2 ∧
      s.ComputedOrLink t 0 (s.byteAt hi ++ s.byteAt lo)) ∧
    ∀ q : Reg, s.reg q = s.byteAt hi ++ s.byteAt lo → exec (.lsi rA rB) s = exec (.ssp q rA) s := by
  have hread := State.readWord_pair hpair hlo hhi
  refine ⟨fun ha => ?_, fun q hq => ?_⟩
  · rw [exec_lsi_reach (State.sprCheck_eq ha (.inl (by decide)) rfl), hread]
    obtain ⟨hlink, -⟩ := State.setRegOrLink_computed hok 0 (s.byteAt hi ++ s.byteAt lo) (s.pc + 2)
    exact ⟨_, rfl, rfl, hlink⟩
  · simp only [exec, execLsi, execSsp, hread, hq, Res.bind_ok]

end LoadsAndStores

/-! ### What the read that a faulting SSI may have made can show (R67, D35) -/

/-- Only address `a` itself reaches I/O register `a`. -/
theorem eq_of_sprAt_eq_io {a b : BitVec 7} (h : sprAt a = .io b) : a = b := by
  have hlow : ∀ n < 16, sprLow n ≠ .io b := by
    intro n hn e
    interval_cases n <;> cases e
  unfold sprAt at h
  split at h
  · exact absurd h (hlow _ ‹_›)
  · split_ifs at h
    cases h; rfl

/-- A read leaves the UART's input, or is the receive register's and takes a byte off. -/
theorem State.sprRead_uartIn {s t : State} {r : Spr} {v : Word} (h : s.sprRead r = .ok v t) :
    t.uartIn = s.uartIn ∨ r = .io s.cfg.uartRx ∧ t.uartIn = s.uartIn.tail := by
  cases r with
  | io a =>
    rw [State.sprRead, State.ioRead_eq] at h
    split at h
    · rename_i ha
      unfold State.uartReceive at h
      split at h
      · cases h; exact .inl rfl
      · rename_i hin; cases h; exact .inr ⟨by rw [ha], by rw [hin]; rfl⟩
    · cases h; exact .inl rfl
  | userReg i | userCode i | userData i =>
    simp only [State.sprRead] at h
    obtain ⟨-, h⟩ := State.withContext_eq_ok h
    cases h; exact .inl rfl
  | _ => cases h; exact .inl rfl

theorem State.maybeDiscardedRead_uartIn (s : State) (r : Spr) :
    (s.maybeDiscardedRead r).uartIn = s.uartIn ∨
      r = .io s.cfg.uartRx ∧ (s.maybeDiscardedRead r).uartIn = s.uartIn.tail := by
  unfold State.maybeDiscardedRead
  split
  · split
    · rename_i v t h; exact State.sprRead_uartIn (s := s.drawn) h
    · exact .inl rfl
    · exact .inl rfl
  · exact .inl rfl

/-- SSI's memory check follows the check of its special register (R183); the register may have been read before the
trap. -/
theorem exec_ssi_trap {s : State} {rA rB : Reg} {k : TrapKind}
    (hreach : (s.reg rA).toNat ≤ 7 ∨ s.mode = .kernel ∧ (s.reg rA).toNat ≤ 127)
    (h : s.wordPair (s.reg rB) .dataWrite = .error k) :
    ∃ n input, exec (.ssi rA rB) s = .next (({ s with draws := n, uartIn := input } : State).enter k) ∧
      (input = s.uartIn ∨ (s.reg rA).toNat = s.cfg.uartRx.toNat ∧ input = s.uartIn.tail) := by
  have hr := State.sprCheck_low hreach
  obtain ⟨d, u, e⟩ := State.maybeDiscardedRead_eq s (sprAt ((s.reg rA).setWidth 7))
  refine ⟨d, u, by rw [exec_ssi_reach hr, State.storeSpecial_error _ h, e]; rfl, ?_⟩
  rcases State.maybeDiscardedRead_uartIn s (sprAt ((s.reg rA).setWidth 7)) with hu | ⟨hio, hu⟩
  · rw [e] at hu; exact .inl hu
  · rw [e] at hu
    refine .inr ⟨?_, hu⟩
    rw [← eq_of_sprAt_eq_io hio, BitVec.toNat_setWidth]
    omega

/-! ### Page faults (R66, R72) -/

/-- Settles O23: the page's permission fails the check, and no reference follows. -/
theorem loadPageFaults : Obligations.LoadPageFaults := by
  intro rA rB imm7 s
  refine ⟨fun h => exec_ldb_trap (State.translate_invalid h), fun h he => ?_, fun h he => ?_, fun h he hreach => ?_⟩
  · exact exec_ldw_trap (State.wordPair_fault he (State.translate_invalid h))
  · exact exec_lcw_trap (State.wordPair_fault he (State.translate_invalid h))
  · exact exec_lsi_trap hreach (State.wordPair_fault he (State.translate_invalid h))

/-- Settles O24: both kinds of page fail the check of a write; SSI may have read its register by then. -/
theorem storePageFaults : Obligations.StorePageFaults := by
  intro rA rB imm7 s
  have shut : ∀ va, s.InvalidPage va .dataWrite ∨ s.ReadOnlyPage va →
      s.translate va .dataWrite = .error (.pageFault va .dataWrite) := fun va h =>
    h.elim State.translate_invalid State.translate_readOnly
  exact ⟨fun h => exec_stb_trap (shut _ h), fun h he => exec_stw_trap (State.wordPair_fault he (shut _ h)),
    fun h he hreach => exec_ssi_trap hreach (State.wordPair_fault he (shut _ h))⟩

/-! ### Odd addresses (R65, D6) -/

section OddAddresses

variable {s : State} {va : Word} {acc : Access} {lo hi pa : PhysAddr}

theorem State.wordPair_odd_fault (hodd : va.getLsbD 0 = true) (hcfg : s.cfg.misalignedData = .fault) :
    s.wordPair va acc = .error (.misaligned va acc) := by
  simp [State.wordPair, isEven_of_odd hodd, hcfg]

theorem State.wordPair_odd_ignoreBit0 (hodd : va.getLsbD 0 = true) (hcfg : s.cfg.misalignedData = .ignoreBit0)
    (h : s.Reaches (va - 1) acc pa) : s.wordPair va acc = .ok (pa, pa + 1) := by
  simp only [State.wordPair, isEven_of_odd hodd, hcfg, clearBit0_odd hodd, State.alignedPair_ok h]
  rfl

theorem State.wordPair_odd_split (hodd : va.getLsbD 0 = true) (hcfg : s.cfg.misalignedData = .split)
    (hlo : s.Reaches va acc lo) (hhi : s.Reaches (va + 1) acc hi) : s.wordPair va acc = .ok (lo, hi) := by
  unfold State.Reaches at hlo hhi
  simp only [State.wordPair, State.splitPair, isEven_of_odd hodd, hcfg, hlo, hhi]
  rfl

/-- Translation keeps bit 0 of the address. -/
theorem State.Reaches.lsb (h : s.Reaches va acc pa) : pa.getLsbD 0 = va.getLsbD 0 := by
  rw [(State.translate_eq_ok h).2]
  refine (BitVec.getLsbD_append (x := frameOf s.cfg.mmuLayout (s.mmuEntry va acc)) (y := pageOffset va)).trans ?_
  simp [pageOffset]

theorem getLsbD_succ_odd {a : Word} (h : a.getLsbD 0 = true) : (a + 1).getLsbD 0 = false := by
  have hodd := toNat_mod_two a
  have hsucc := toNat_mod_two (a + 1)
  have hone : (1 : Word).toNat = 1 := rfl
  rw [h, if_pos rfl] at hodd
  rw [BitVec.toNat_add, hone] at hsucc
  cases hb : (a + 1).getLsbD 0 with
  | false => rfl
  | true => rw [hb, if_pos rfl] at hsucc; omega

/-- The two bytes of a word that is split stand at two places, an odd and an even one. -/
theorem State.Reaches.succ_ne (hodd : va.getLsbD 0 = true) (hlo : s.Reaches va acc lo)
    (hhi : s.Reaches (va + 1) acc hi) : hi ≠ lo := by
  rintro rfl
  have hsucc : (va + 1).getLsbD 0 = va.getLsbD 0 := hhi.lsb.symm.trans hlo.lsb
  rw [getLsbD_succ_odd hodd, hodd] at hsucc
  cases hsucc

end OddAddresses

/-- Settles O25: each setting says where the two bytes stand, or is the trap, and each instruction goes on from there. -/
theorem misalignedWords : Obligations.MisalignedWords := by
  intro rA rB imm7 s hok hw
  refine ⟨fun hcfg => ⟨fun hodd => ?_, fun hodd => ?_⟩, fun hcfg pa => ⟨fun hodd => ?_, fun hodd => ?_⟩,
    fun hcfg lo hi => ⟨fun hodd => ?_, fun hodd => ?_⟩⟩
  · have trap := fun acc => State.wordPair_odd_fault (acc := acc) hodd hcfg
    exact ⟨exec_ldw_trap (trap _), exec_stw_trap (trap _)⟩
  · have trap := fun acc => State.wordPair_odd_fault (acc := acc) hodd hcfg
    exact ⟨exec_lcw_trap (trap _), fun hreach => ⟨exec_lsi_trap hreach (trap _), exec_ssi_trap hreach (trap _)⟩⟩
  · have pair := fun acc => State.wordPair_odd_ignoreBit0 (acc := acc) (pa := pa) hodd hcfg
    exact ⟨fun h => exec_ldw_loaded hok (pair _ h.reach) h.low h.high,
      fun h => exec_stw_stored hw (pair _ h.reach) (physAddr_succ_ne pa) h.low h.high⟩
  · have pair := fun acc => State.wordPair_odd_ignoreBit0 (acc := acc) (pa := pa) hodd hcfg
    exact ⟨fun h => exec_lcw_loaded hok (pair _ h.reach) h.low h.high,
      fun h => exec_lsi_writes hok (pair _ h.reach) h.low h.high,
      fun h v hv => exec_ssi_stored hw hv (pair _ h.reach) (physAddr_succ_ne pa) h.low h.high⟩
  · have pair := fun acc => State.wordPair_odd_split (acc := acc) (lo := lo) (hi := hi) hodd hcfg
    exact ⟨fun hlo hhi => exec_ldw_loaded hok (pair _ hlo hhi),
      fun hlo hhi => exec_stw_stored hw (pair _ hlo hhi) (State.Reaches.succ_ne hodd hlo hhi)⟩
  · have pair := fun acc => State.wordPair_odd_split (acc := acc) (lo := lo) (hi := hi) hodd hcfg
    exact ⟨fun hlo hhi => exec_lcw_loaded hok (pair _ hlo hhi),
      fun hlo hhi => exec_lsi_writes hok (pair _ hlo hhi),
      fun hlo hhi rlo rhi v hv => exec_ssi_stored hw hv (pair _ hlo hhi) (State.Reaches.succ_ne hodd hlo hhi) rlo rhi⟩

/-! ### A load after a store (R80, R83) -/

/-- A word is its two bytes, the high one first (R63). -/
theorem extract_high_append_low (v : Word) : v.extractLsb' 8 8 ++ v.extractLsb' 0 8 = v :=
  (BitVec.extractLsb'_append_extractLsb'_eq_extractLsb' rfl).trans BitVec.extractLsb'_eq_self

section AfterStore

variable {s t : State} {p : PhysAddr → Prop} {lo hi : PhysAddr} {v : Word}

theorem State.StoredWord.join (h : s.StoredWord t lo hi v) : t.byteAt hi ++ t.byteAt lo = v := by
  rw [h.low, h.high, extract_high_append_low]

/-- A store leaves the current bank alone, and with it registers and translation. -/
theorem State.OnlyMemory.bank (h : s.OnlyMemory t p) : t.bank = s.bank := by
  rw [State.bank, State.bankNo_congr h.singletons.mode h.singletons.context, h.banks, State.bank]

theorem State.OnlyMemory.reg (h : s.OnlyMemory t p) (r : Reg) : t.reg r = s.reg r := by
  rw [State.reg, h.bank, State.reg]

theorem State.OnlyMemory.translate (h : s.OnlyMemory t p) (va : Word) (acc : Access) :
    t.translate va acc = s.translate va acc := by
  have hentry : t.mmuEntry va acc = s.mmuEntry va acc := by cases acc <;> simp [State.mmuEntry, h.bank]
  simp [State.translate, hentry, h.singletons.cfg]

theorem State.OnlyMemory.storage (h : s.OnlyMemory t p) {pa : PhysAddr} (hr : s.IsRam pa) : t.IsStorage pa :=
  .inl ((State.kindAt_congr h.singletons.cfg pa).trans hr)

theorem State.OnlyMemory.bankOk (h : s.OnlyMemory t p) : t.bankOk = s.bankOk :=
  State.bankOk_congr h.singletons.mode h.singletons.context h.singletons.cfg

end AfterStore

/-- Settles O22: the store leaves registers and translation as they were, so the load finds the two bytes it stored. -/
theorem loadAfterStore : Obligations.LoadAfterStore := by
  intro rA rB rC rD imm7 s pa hok hw hst
  obtain ⟨t, hexec, hstored⟩ :=
    exec_stw_stored hw (State.wordPair_aligned hst.even hst.reach) (physAddr_succ_ne pa) hst.low hst.high
  have frame := hstored.frame
  have hokt : t.bankOk = true := frame.bankOk.trans hok
  refine ⟨t, hexec, fun hreach => ?_, fun heven hreach => ?_⟩
  · have hpair : t.wordPair (t.reg rB + BitVec.ofInt 16 imm7.toInt) .dataRead = .ok (pa, pa + 1) := by
      rw [frame.reg]
      exact State.wordPair_aligned hst.even ((frame.translate _ _).trans hreach)
    rw [← hstored.join]
    exact exec_ldw_loaded hokt hpair (frame.storage hst.low) (frame.storage hst.high)
  · have hpair : t.wordPair (t.reg rD) .codeRead = .ok (pa, pa + 1) := by
      rw [frame.reg]
      exact State.wordPair_aligned heven ((frame.translate _ _).trans hreach)
    rw [← hstored.join]
    exact exec_lcw_loaded hokt hpair (frame.storage hst.low) (frame.storage hst.high)

/-! ### ROM and unpopulated addresses (R77, D31, U32) -/

section PhysicalKinds

variable {s : State} {lo hi pa : PhysAddr}

/-- ROM and unpopulated addresses ignore a write. -/
theorem State.writePhys_inert (h : s.kindAt pa = .rom ∨ s.kindAt pa = .unpopulated) (b : Byte) :
    s.writePhys pa b = s := by
  unfold State.writePhys
  rcases h with h | h <;> rw [h]

theorem State.writePair_inert (hlo : s.kindAt lo = .rom ∨ s.kindAt lo = .unpopulated)
    (hhi : s.kindAt hi = .rom ∨ s.kindAt hi = .unpopulated) (v : Word) : s.writePair (lo, hi) v = s := by
  have hdev : s.kindAt lo ≠ .device := by rcases hlo with h | h <;> rw [h] <;> decide
  simp [State.writePair, State.deviceWord_false (p := (lo, hi)) hdev, State.writePhys_inert hlo,
    State.writePhys_inert hhi]

/-- An unpopulated address reads a free byte. -/
theorem State.readPhys_empty (h : s.kindAt pa = .unpopulated) :
    s.readPhys pa = .ok (Config.freeByte s.draws) { s with draws := s.draws + 1 } := by
  simp only [State.readPhys, h, State.drawn]

theorem State.readPair_empty (hlo : s.kindAt lo = .unpopulated) (hhi : s.kindAt hi = .unpopulated) :
    s.readPair (lo, hi) = .ok (joinBytes (Config.freeByte s.draws) (Config.freeByte (s.draws + 1)))
      { s with draws := s.draws + 2 } := by
  have hdev : s.kindAt lo ≠ .device := by rw [hlo]; decide
  have hnext : ({ s with draws := s.draws + 1 } : State).kindAt hi = .unpopulated := hhi
  rw [State.readPair, State.deviceWord_false (p := (lo, hi)) hdev, if_neg Bool.false_ne_true, State.readPhys_empty hlo,
    Res.bind_ok, State.readPhys_empty hnext, Res.bind_ok]

theorem State.readWord_empty {va : Word} {acc : Access} (he : va.getLsbD 0 = false) (h : s.Reaches va acc pa)
    (hlo : s.kindAt pa = .unpopulated) (hhi : s.kindAt (pa + 1) = .unpopulated) :
    ∃ v, s.readWord va acc = .ok v { s with draws := s.draws + 2 } := by
  rw [State.readWord, State.wordPair_aligned he h, State.checked_ok]
  exact ⟨_, State.readPair_empty hlo hhi⟩

/-- LDB's sign-extended byte (R131). -/
theorem State.readByte_sext_empty {va : Word} (h : s.Reaches va .dataRead pa) (hpa : s.kindAt pa = .unpopulated) :
    ((s.readByte va).bind fun b t => .ok (sext8 b) t) =
      .ok (sext8 (Config.freeByte s.draws)) { s with draws := s.draws + 1 } := by
  rw [State.readByte, h, State.checked_ok, State.readPhys_empty hpa, Res.bind_ok]

end PhysicalKinds

/-- Settles O26: a store's references change nothing, a load's cost draws. -/
theorem physicalKinds : Obligations.PhysicalKinds := by
  intro rA rB imm7 s pa hok
  refine ⟨fun h hpa => ?_, fun h he hlo hhi => ?_, fun h hpa => ?_, fun h he hlo hhi => ?_, fun h he hlo hhi => ?_⟩
  · rw [exec_stb, State.writeByte, h, State.checked_ok, State.writePhys_inert hpa]
    rfl
  · rw [exec_stw, State.writeWord, State.wordPair_aligned he h, State.checked_ok, State.writePair_inert hlo hhi]
    rfl
  · obtain ⟨t, hrun, hload⟩ := Res.intoReg_loaded hok rA (State.readByte_sext_empty h hpa)
    exact ⟨t, _, (exec_ldb rA rB imm7 s).trans hrun, hload⟩
  · obtain ⟨v, hread⟩ := State.readWord_empty he h hlo hhi
    obtain ⟨t, hrun, hload⟩ := Res.intoReg_loaded hok rA hread
    exact ⟨t, v, (exec_ldw rA rB imm7 s).trans hrun, hload⟩
  · obtain ⟨v, hread⟩ := State.readWord_empty he h hlo hhi
    obtain ⟨t, hload⟩ := Res.intoReg_loaded hok rA hread
    exact ⟨t, v, hload⟩

end Sys2Proof.Machine
end

section
/-! PROOFS. Translation (spec/20_memory.md R70..R73, spec/60_exceptions.md R272): the permission table in plain numbers,
the page fault of a fetch, and that no step writes outside the pages it may write. -/

namespace Sys2Proof.Machine

/-! ### Translation (R70, R71, R72) -/

theorem pageOf_val (va : Word) : (pageOf va).val = va.toNat / 4096 := by
  have := va.isLt
  simp only [pageOf, BitVec.extractLsb'_toNat, Nat.shiftRight_eq_div_pow]
  omega

theorem pageOffset_toNat (va : Word) : (pageOffset va).toNat = va.toNat % 4096 := by
  simp [pageOffset]

/-- The frame as a number, under each layout (D14). -/
theorem frameOf_toNat (l : MmuLayout) (e : Word) :
    (frameOf l e).toNat = match l with
      | .frameLow => e.toNat % 4096
      | .frameHigh => e.toNat / 16 := by
  have := e.isLt
  cases l with
  | frameLow => simp [frameOf]
  | frameHigh => simp only [frameOf, BitVec.extractLsb'_toNat, Nat.shiftRight_eq_div_pow]; omega

/-- PP as a number, under each layout (D14). -/
theorem permissionOf_toNat (l : MmuLayout) (e : Word) :
    (permissionOf l e).toNat = match l with
      | .frameLow => e.toNat / 4096 % 4
      | .frameHigh => e.toNat % 4 := by
  cases l with
  | frameLow => simp [permissionOf, Nat.shiftRight_eq_div_pow]
  | frameHigh => simp [permissionOf]

section Translation

variable {s : State} {va : Word} {acc : Access}

theorem State.bank_eq_bankAt (s : State) : s.bank = s.bankAt (if s.mode = .kernel then 0 else s.context.toNat) := by
  unfold State.bank State.bankNo
  cases s.mode <;> rfl

/-- Code space for a fetch and for LCW, data space otherwise (R61). -/
theorem State.mmuEntry_eq (s : State) (va : Word) (acc : Access) :
    s.mmuEntry va acc =
      if acc = .fetch ∨ acc = .codeRead then s.bank.cmmu.get (pageOf va) else s.bank.dmmu.get (pageOf va) := by
  cases acc <;> rfl

theorem State.translate_allowed
    (h : permissionFaults s.cfg.ppReserved (permissionOf s.cfg.mmuLayout (s.mmuEntry va acc)) acc = false) :
    ∃ pa, s.translate va acc = .ok pa ∧
      pa.toNat = (frameOf s.cfg.mmuLayout (s.mmuEntry va acc)).toNat * 4096 + va.toNat % 4096 := by
  refine ⟨frameOf s.cfg.mmuLayout (s.mmuEntry va acc) ++ pageOffset va, by simp [State.translate, h], ?_⟩
  rw [BitVec.toNat_append, Nat.shiftLeft_eq, Nat.mul_comm, ← Nat.two_pow_add_eq_or_of_lt (pageOffset va).isLt,
    pageOffset_toNat, Nat.mul_comm]

theorem State.translate_faults
    (h : permissionFaults s.cfg.ppReserved (permissionOf s.cfg.mmuLayout (s.mmuEntry va acc)) acc = true) :
    s.translate va acc = .error (.pageFault va acc) := by
  simp [State.translate, h]

end Translation

/-- The permission table by PP as a number (R72). -/
theorem permissionFaults_eq (p : ReservedPermission) {pp : BitVec 2} {acc : Access} :
    (pp.toNat = 0 → permissionFaults p pp acc = false) ∧
    (pp.toNat = 1 → permissionFaults p pp acc = decide (acc = .dataWrite)) ∧
    (pp.toNat = 2 → permissionFaults p pp acc = reservedFaults p acc) ∧
    (pp.toNat = 3 → permissionFaults p pp acc = true) := by
  refine ⟨fun h => ?_, fun h => ?_, fun h => ?_, fun h => ?_⟩
  · obtain rfl : pp = 0b00 := BitVec.eq_of_toNat_eq h
    rfl
  · obtain rfl : pp = 0b01 := BitVec.eq_of_toNat_eq h
    rfl
  · obtain rfl : pp = 0b10 := BitVec.eq_of_toNat_eq h
    rfl
  · obtain rfl : pp = 0b11 := BitVec.eq_of_toNat_eq h
    rfl

/-- Settles O28: the register, its frame and its PP are the ones named, and the table says which accesses fault. -/
theorem translationTable : Obligations.TranslationTable := by
  intro va acc s page hpage b e frame pp allowed faults
  obtain rfl : page = pageOf va := Fin.ext (hpage.trans (pageOf_val va).symm)
  have hentry : s.mmuEntry va acc = e := by rw [State.mmuEntry_eq, State.bank_eq_bankAt]
  have hframe : (frameOf s.cfg.mmuLayout (s.mmuEntry va acc)).toNat = frame := by
    rw [hentry]; exact frameOf_toNat _ _
  have hpp : (permissionOf s.cfg.mmuLayout (s.mmuEntry va acc)).toNat = pp := by
    rw [hentry]; exact permissionOf_toNat _ _
  have hallowed : permissionFaults s.cfg.ppReserved (permissionOf s.cfg.mmuLayout (s.mmuEntry va acc)) acc = false →
      allowed := fun h => by
    obtain ⟨pa, hpa, hval⟩ := State.translate_allowed h
    exact ⟨pa, hpa, hframe ▸ hval⟩
  obtain ⟨h0, h1, h2, h3⟩ := permissionFaults_eq s.cfg.ppReserved
    (pp := permissionOf s.cfg.mmuLayout (s.mmuEntry va acc)) (acc := acc)
  refine ⟨fun h => hallowed (h0 (hpp.trans h)), fun h => ?_, fun h => ?_,
    fun h => State.translate_faults (h3 (hpp.trans h))⟩
  · split
    · rename_i hacc; exact State.translate_faults ((h1 (hpp.trans h)).trans (decide_eq_true hacc))
    · rename_i hacc; exact hallowed ((h1 (hpp.trans h)).trans (decide_eq_false hacc))
  · split
    · rename_i hr; exact State.translate_faults ((h2 (hpp.trans h)).trans hr)
    · rename_i hr; exact hallowed ((h2 (hpp.trans h)).trans (Bool.eq_false_iff.mpr hr))

/-! ### The page fault of a fetch (R73, R266) -/

/-- IDR after an entry that has a fault address is that address (R28, D21). -/
theorem State.enter_idr {s : State} {k : TrapKind} {va : Word} (h : s.CanEnter) (ha : k.faultAddress = some va) :
    (s.enter k).idr = va := by
  rw [State.enter_address (State.isDoubleFault_false h k) ha]

/-- An entry that is no double fault leaves what R261 and R270 say. -/
theorem State.enter_entered {s : State} (h : s.CanEnter) (k : TrapKind) : s.Entered (s.enter k) k := by
  have hidr : ∀ va acc, k = .pageFault va acc ∨ k = .misaligned va acc → (s.enter k).idr = va := by
    rintro va acc (rfl | rfl) <;> exact State.enter_idr h rfl
  rcases s.enter_cases k with ⟨hd, -⟩ | ⟨-, v, d, e⟩
  · rw [State.isDoubleFault_false h] at hd; cases hd
  · rw [e] at hidr ⊢
    exact
      { irr := by cases k <;> rfl
        isr := by cases hm : s.mode <;> simp [State.vectored, isrEncode, hm]
        icr := rfl, idr := hidr, mode := rfl, ie := rfl, pc := rfl, banks := fun _ => rfl, memory := fun _ => rfl
        trap := rfl, halted := rfl, context := rfl, cycles := rfl, uartIn := rfl, uartOut := rfl, devices := rfl
        irqInput := rfl, cfg := rfl }

/-- A fetch from an invalid page makes no reference (R73). -/
theorem State.fetch_invalid {s : State} (he : s.pc.getLsbD 0 = false) (h : s.InvalidPage s.pc .fetch) :
    s.fetch = .raise (.pageFault s.pc .fetch) s := by
  simp [State.fetch_eq, State.fetchPair, isEven_of he, State.alignedPair_error (State.translate_invalid h)]

theorem fetchAndRun_trap {s : State} {k : TrapKind} (h : s.fetch = .raise k s) :
    fetchAndRun s = .next (s.enter k) := by
  simp only [fetchAndRun, h]

/-- Settles O51: the step's fetch raises the page fault, whose entry from the boundary sets IRR and IDR to the pc. -/
theorem fetchPageFault : Obligations.FetchPageFault := by
  intro s hf hinv he
  have hstep : step s = .next (s.boundary.enter (.pageFault s.pc .fetch)) :=
    hf.step_eq.trans (fetchAndRun_trap (State.fetch_invalid (s := s.boundary) he hinv))
  refine ⟨hstep, fun hcan => ?_⟩
  have entered := State.enter_entered (s := s.boundary) hcan (.pageFault s.pc .fetch)
  exact ⟨_, hstep, entered, entered.irr, entered.idr _ _ (.inl rfl)⟩

/-! ### Stores stay inside writable pages (R71, R272) -/

@[simp] theorem State.byteAt_enter (s : State) (k : TrapKind) (pa : PhysAddr) : (s.enter k).byteAt pa = s.byteAt pa := by
  rw [State.byteAt, s.enter_mem k]
  rfl

/-- RTI writes no memory. -/
theorem State.byteAt_returnFromTrap {s t : State} (h : s.returnFromTrap = .ok () t) (pa : PhysAddr) :
    t.byteAt pa = s.byteAt pa := by
  rcases State.returnFromTrap_eq_ok h with rfl | ⟨-, -, rfl⟩ <;> rfl

/-- An instruction changes a byte only where it may write: one that completes stores inside its pages, a trap's entry
and RTI store nothing. -/
theorem exec_stores_writable {i : Instr} {s t : State} {pa : PhysAddr} (h : exec i s = .next t)
    (hne : t.byteAt pa ≠ s.byteAt pa) : ∃ va, s.translate va .dataWrite = .ok pa := by
  cases exec_ends h with
  | ordinary o => exact o.stores pa hne
  | trap k d u _ _ e => subst e; exact absurd (State.byteAt_enter _ k pa) hne
  | rti _ _ hr => exact absurd (State.byteAt_returnFromTrap hr pa) hne

/-- Settles O58: the boundary and every entry leave memory alone, so the byte was changed by the instruction that ran. -/
theorem storesNeedWritablePages : Obligations.StoresNeedWritablePages := by
  intro s t pa hstep hne
  rcases step_cases hstep with ⟨rfl, -⟩ | ⟨-, -, rfl⟩ | ⟨-, rfl⟩ | ⟨-, -, rfl⟩ | ⟨-, k, -, rfl⟩ |
    ⟨-, w, d, q, u, -, hexec, hend⟩
  · exact absurd rfl hne
  · exact absurd (State.byteAt_enter _ _ pa) hne
  · exact absurd (State.byteAt_enter _ _ pa) hne
  · exact absurd (State.byteAt_enter _ _ pa) hne
  · exact absurd (State.byteAt_enter _ _ pa) hne
  · have hu : u.byteAt pa ≠ s.byteAt pa := by
      rcases hend with rfl | ⟨-, -, rfl⟩
      · exact hne
      · rwa [State.byteAt_enter] at hne
    obtain ⟨va, hva⟩ := exec_stores_writable hexec hu
    exact ⟨va, (State.translate_congr rfl rfl rfl rfl va .dataWrite).symm.trans hva⟩

end Sys2Proof.Machine
end

section
/-! PROOFS. The encoding (spec/30_encoding.md R101..R107): what each field of a format reads, which words a format has,
and from these that decoding and encoding are inverse and that the words of a row of the opcode map are those of its
instructions. -/

namespace Sys2Proof

/-! ### Fields by number (R102) -/

theorem bitField_eq {w : Word} {lo len : Nat} {v : BitVec len} (h : w.toNat / 2 ^ lo % 2 ^ len = v.toNat) :
    bitField w lo len = v := BitVec.eq_of_toNat_eq ((bitField_toNat w lo len).trans h)

theorem regField_eq {w : Word} {lo : Nat} {r : Reg} (h : w.toNat / 2 ^ lo % 8 = r.val) : regField w lo = r :=
  Fin.ext ((regField_val w lo).trans h)

/-- A field under ones of a mask is the masked word's field. -/
theorem bitField_of_masked {w mask m : Word} {lo len : Nat} (h : w &&& mask = m)
    (hones : bitField mask lo len = BitVec.allOnes len) : bitField w lo len = bitField m lo len := by
  rw [← h, bitField, bitField, BitVec.extractLsb'_and, ← bitField, ← bitField, hones, BitVec.and_allOnes]

/-! ### What the fields of each format read (R101, R102) -/

@[simp] theorem fields_formatM (op : BitVec 3) (imm7 : BitVec 7) (rB rA : Reg) :
    bitField (formatM op imm7 rB rA) 13 3 = op ∧ fieldImm7 (formatM op imm7 rB rA) = imm7 ∧
      fieldB (formatM op imm7 rB rA) = rB ∧ fieldA (formatM op imm7 rB rA) = rA := by
  have := formatM_toNat op imm7 rB rA
  refine ⟨bitField_eq ?_, bitField_eq ?_, regField_eq ?_, regField_eq ?_⟩ <;> omega

@[simp] theorem fields_formatU (op : BitVec 3) (imm10 : BitVec 10) (low : BitVec 3) :
    bitField (formatU op imm10 low) 13 3 = op ∧ fieldImm10 (formatU op imm10 low) = imm10 ∧
      bitField (formatU op imm10 low) 0 3 = low := by
  have := formatU_toNat op imm10 low
  refine ⟨bitField_eq ?_, bitField_eq ?_, bitField_eq ?_⟩ <;> omega

@[simp] theorem fieldA_formatU (op : BitVec 3) (imm10 : BitVec 10) (rA : Reg) :
    fieldA (formatU op imm10 (regBits rA)) = rA := by
  have := formatU_toNat op imm10 (regBits rA)
  rw [regBits_toNat] at this
  exact regField_eq (by omega)

@[simp] theorem fields_formatJ (imm6 : BitVec 6) (rB rA : Reg) :
    (bitField (formatJ imm6 rB rA) 13 3).toNat = 7 ∧ (bitField (formatJ imm6 rB rA) 12 1).toNat = 0 ∧
      fieldImm6 (formatJ imm6 rB rA) = imm6 ∧ fieldB (formatJ imm6 rB rA) = rB ∧
      fieldA (formatJ imm6 rB rA) = rA := by
  have := formatJ_toNat imm6 rB rA
  refine ⟨(bitField_toNat _ _ _).trans ?_, (bitField_toNat _ _ _).trans ?_, bitField_eq ?_, regField_eq ?_,
    regField_eq ?_⟩ <;> omega

@[simp] theorem fields_formatX (x : BitVec 3) (rC rB rA : Reg) :
    bitField (formatX x rC rB rA) 9 3 = x ∧ fieldC (formatX x rC rB rA) = rC ∧
      fieldB (formatX x rC rB rA) = rB ∧ fieldA (formatX x rC rB rA) = rA := by
  have := formatX_toNat x rC rB rA
  refine ⟨bitField_eq ?_, regField_eq ?_, regField_eq ?_, regField_eq ?_⟩ <;> omega

@[simp] theorem fields_formatY (y : BitVec 3) (rB rA : Reg) :
    bitField (formatY y rB rA) 6 3 = y ∧ fieldB (formatY y rB rA) = rB ∧ fieldA (formatY y rB rA) = rA := by
  have := formatY_toNat y rB rA
  refine ⟨bitField_eq ?_, regField_eq ?_, regField_eq ?_⟩ <;> omega

@[simp] theorem fields_formatZ (z : BitVec 3) (rA : Reg) :
    bitField (formatZ z rA) 3 3 = z ∧ fieldA (formatZ z rA) = rA := by
  have := formatZ_toNat z rA
  refine ⟨bitField_eq ?_, regField_eq ?_⟩ <;> omega

/-! ### Which words a format has: those with its leading bits (R101) -/

theorem formatM_of_field {w : Word} {op : BitVec 3} (h : bitField w 13 3 = op) :
    formatM op (fieldImm7 w) (fieldB w) (fieldA w) = w := by
  subst h
  apply BitVec.eq_of_toNat_eq
  have := w.isLt
  simp only [formatM_toNat, fieldImm7, fieldB, fieldA, regField_val, bitField_toNat]
  omega

theorem formatU_of_fields {w : Word} {op low : BitVec 3} (hop : bitField w 13 3 = op) (hlow : bitField w 0 3 = low) :
    formatU op (fieldImm10 w) low = w := by
  subst hop hlow
  apply BitVec.eq_of_toNat_eq
  have := w.isLt
  simp only [formatU_toNat, fieldImm10, bitField_toNat]
  omega

/-- The register field rA as its three bits. -/
theorem regBits_fieldA (w : Word) : regBits (fieldA w) = bitField w 0 3 :=
  BitVec.eq_of_toNat_eq (regBits_toNat _)

theorem formatJ_of_field {w : Word} (hw : 0xE000 ≤ w.toNat) (h : (bitField w 12 1).toNat = 0) :
    formatJ (fieldImm6 w) (fieldB w) (fieldA w) = w := by
  apply BitVec.eq_of_toNat_eq
  have := w.isLt
  simp only [formatJ_toNat, fieldImm6, fieldB, fieldA, regField_val, bitField_toNat] at h ⊢
  omega

theorem formatX_of_field {w : Word} {x : BitVec 3} (hw : 0xF000 ≤ w.toNat) (hx : bitField w 9 3 = x) :
    formatX x (fieldC w) (fieldB w) (fieldA w) = w := by
  subst hx
  apply BitVec.eq_of_toNat_eq
  have := w.isLt
  simp only [formatX_toNat, fieldC, fieldB, fieldA, regField_val, bitField_toNat]
  omega

theorem formatY_of_field {w : Word} {y : BitVec 3} (hw : 0xFE00 ≤ w.toNat) (hy : bitField w 6 3 = y) :
    formatY y (fieldB w) (fieldA w) = w := by
  subst hy
  apply BitVec.eq_of_toNat_eq
  have := w.isLt
  simp only [formatY_toNat, fieldB, fieldA, regField_val, bitField_toNat]
  omega

theorem formatZ_of_field {w : Word} {z : BitVec 3} (hw : 0xFFC0 ≤ w.toNat) (hz : bitField w 3 3 = z) :
    formatZ z (fieldA w) = w := by
  subst hz
  apply BitVec.eq_of_toNat_eq
  have := w.isLt
  simp only [formatZ_toNat, fieldA, regField_val, bitField_toNat]
  omega

theorem formatV_of_field {w : Word} {v : BitVec 3} (hw : 0xFFF8 ≤ w.toNat) (hv : bitField w 0 3 = v) :
    formatV v = w := by
  subst hv
  apply BitVec.eq_of_toNat_eq
  have := w.isLt
  simp only [formatV_toNat, bitField_toNat]
  omega

/-! ### The words of a row have the format of its instructions (R105) -/

/-- A word is at least as large as what a mask leaves of it. -/
theorem le_of_masked {w mask m : Word} (h : w &&& mask = m) : m.toNat ≤ w.toNat := by
  rw [← h, BitVec.toNat_and]; exact Nat.and_le_left

theorem formatM_of_masked {w : Word} {op : BitVec 3} (h : w &&& 0xE000 = formatM op 0 0 0) :
    formatM op (fieldImm7 w) (fieldB w) (fieldA w) = w :=
  formatM_of_field ((bitField_of_masked h rfl).trans (fields_formatM op 0 0 0).1)

theorem formatU_of_masked {w : Word} {op : BitVec 3} (h : w &&& 0xE000 = formatU op 0 0) :
    formatU op (fieldImm10 w) (regBits (fieldA w)) = w :=
  formatU_of_fields ((bitField_of_masked h rfl).trans (fields_formatU op 0 0).1) (regBits_fieldA w).symm

theorem formatU_of_masked_low {w : Word} {op low : BitVec 3} (h : w &&& 0xE007 = formatU op 0 low) :
    formatU op (fieldImm10 w) low = w := by
  obtain ⟨hop, -, hlow⟩ := fields_formatU op 0 low
  exact formatU_of_fields ((bitField_of_masked h rfl).trans hop) ((bitField_of_masked h rfl).trans hlow)

theorem formatJ_of_masked {w : Word} (h : w &&& 0xF000 = 0xE000) :
    formatJ (fieldImm6 w) (fieldB w) (fieldA w) = w :=
  formatJ_of_field (le_of_masked h) (congrArg BitVec.toNat (bitField_of_masked (lo := 12) (len := 1) h rfl))

theorem formatX_of_masked {w : Word} {x : BitVec 3} (h : w &&& 0xFE00 = formatX x 0 0 0) :
    formatX x (fieldC w) (fieldB w) (fieldA w) = w := by
  have hle := le_of_masked h
  rw [formatX_toNat] at hle
  exact formatX_of_field (by omega) ((bitField_of_masked h rfl).trans (by simp))

theorem formatY_of_masked {w : Word} {y : BitVec 3} (h : w &&& 0xFFC0 = formatY y 0 0) :
    formatY y (fieldB w) (fieldA w) = w := by
  have hle := le_of_masked h
  rw [formatY_toNat] at hle
  exact formatY_of_field (by omega) ((bitField_of_masked h rfl).trans (by simp))

theorem formatZ_of_masked {w : Word} {z : BitVec 3} (h : w &&& 0xFFF8 = formatZ z 0) : formatZ z (fieldA w) = w := by
  have hle := le_of_masked h
  rw [formatZ_toNat] at hle
  exact formatZ_of_field (by omega) ((bitField_of_masked h rfl).trans (by simp))

theorem eq_of_masked_all {w m : Word} (h : w &&& 0xFFFF = m) : m = w := h ▸ BitVec.and_allOnes

/-! ### The way down the decision tree (R104) -/

section Tree

variable {w : Word}

theorem decodeWord_eq_decodeXop (h : 0xF000 ≤ w.toNat) : decodeWord w = decodeXop w := by
  have hop : (bitField w 13 3).toNat = 7 := (bitField_toNat w 13 3).trans (by omega)
  have hbit : (bitField w 12 1).toNat = 1 := (bitField_toNat w 12 1).trans (by omega)
  have hne : w ≠ 0 := by rintro rfl; simp at h
  rw [decodeWord, if_neg hne]
  simp [hop, hbit]

theorem decodeXop_eq_decodeYop (h : 0xFE00 ≤ w.toNat) : decodeXop w = decodeYop w := by
  have hx : (bitField w 9 3).toNat = 7 := (bitField_toNat w 9 3).trans (by omega)
  simp [decodeXop, hx]

theorem decodeYop_eq_decodeZop (h : 0xFFC0 ≤ w.toNat) : decodeYop w = decodeZop w := by
  have hy : (bitField w 6 3).toNat = 7 := (bitField_toNat w 6 3).trans (by omega)
  simp [decodeYop, hy]

/-- The selector that takes the last arm is 7. -/
theorem selector_last {v : BitVec 3} (h0 : v.toNat ≠ 0) (h1 : v.toNat ≠ 1) (h2 : v.toNat ≠ 2) (h3 : v.toNat ≠ 3)
    (h4 : v.toNat ≠ 4) (h5 : v.toNat ≠ 5) (h6 : v.toNat ≠ 6) : v.toNat = 7 := by omega

/-! ### Encoding inverts decoding, from the leaves of the tree up (R104, R105) -/

theorem encode_decodeVop (hw : 0xFFF8 ≤ w.toNat) : encode (decodeVop w) = w := by
  unfold decodeVop
  split
  case h_8 => exact formatV_of_field hw (BitVec.eq_of_toNat_eq (selector_last ‹_› ‹_› ‹_› ‹_› ‹_› ‹_› ‹_›))
  all_goals exact formatV_of_field hw (BitVec.eq_of_toNat_eq ‹_›)

theorem encode_decodeZop (hw : 0xFFC0 ≤ w.toNat) : encode (decodeZop w) = w := by
  unfold decodeZop
  split
  case h_8 =>
    have hsel : (bitField w 3 3).toNat = 7 := selector_last ‹_› ‹_› ‹_› ‹_› ‹_› ‹_› ‹_›
    rw [bitField_toNat] at hsel
    exact encode_decodeVop (by omega)
  all_goals exact formatZ_of_field hw (BitVec.eq_of_toNat_eq ‹_›)

theorem encode_decodeYop (hw : 0xFE00 ≤ w.toNat) : encode (decodeYop w) = w := by
  unfold decodeYop
  split
  case h_8 =>
    have hsel : (bitField w 6 3).toNat = 7 := selector_last ‹_› ‹_› ‹_› ‹_› ‹_› ‹_› ‹_›
    rw [bitField_toNat] at hsel
    exact encode_decodeZop (by omega)
  all_goals exact formatY_of_field hw (BitVec.eq_of_toNat_eq ‹_›)

theorem encode_decodeXop (hw : 0xF000 ≤ w.toNat) : encode (decodeXop w) = w := by
  unfold decodeXop
  split
  case h_8 =>
    have hsel : (bitField w 9 3).toNat = 7 := selector_last ‹_› ‹_› ‹_› ‹_› ‹_› ‹_› ‹_›
    rw [bitField_toNat] at hsel
    exact encode_decodeYop (by omega)
  all_goals exact formatX_of_field hw (BitVec.eq_of_toNat_eq ‹_›)

theorem encode_decodeBranch (hop : bitField w 13 3 = 6) : encode (decodeBranch w) = w := by
  unfold decodeBranch
  split
  case h_8 => exact formatU_of_fields hop (BitVec.eq_of_toNat_eq (selector_last ‹_› ‹_› ‹_› ‹_› ‹_› ‹_› ‹_›))
  all_goals exact formatU_of_fields hop (BitVec.eq_of_toNat_eq ‹_›)

/-- Encoding inverts decoding, for every word. -/
theorem encode_decodeWord (w : Word) : encode (decodeWord w) = w := by
  unfold decodeWord
  split
  case isTrue h => exact h.symm
  split
  case h_6 hop => exact formatU_of_fields (BitVec.eq_of_toNat_eq hop) (regBits_fieldA w).symm
  case h_7 hop => exact encode_decodeBranch (BitVec.eq_of_toNat_eq hop)
  case h_8 =>
    have hop : (bitField w 13 3).toNat = 7 := selector_last ‹_› ‹_› ‹_› ‹_› ‹_› ‹_› ‹_›
    rw [bitField_toNat] at hop
    split
    case h_1 hbit => exact formatJ_of_field (by omega) hbit
    case h_2 hbit =>
      rw [imp_false, bitField_toNat] at hbit
      exact encode_decodeXop (by omega)
  all_goals exact formatM_of_field (BitVec.eq_of_toNat_eq ‹_›)

end Tree

/-! ### Decoding inverts encoding, format by format (R104, R105) -/

/-- `LDW r0, r0+0` alone has no word of its own (R251). -/
theorem Instr.wf_iff (i : Instr) : i.wf = true ↔ i ≠ .ldw 0 0 0 := by
  cases i with
  | ldw => simp [Instr.wf, imp_iff_not_or, or_assoc]
  | _ => simp [Instr.wf]

theorem formatM_ne_zero {op : BitVec 3} {imm7 : BitVec 7} {rB rA : Reg}
    (h : ¬(op = 0 ∧ imm7 = 0 ∧ rB = 0 ∧ rA = 0)) : formatM op imm7 rB rA ≠ 0 := by
  intro e
  obtain ⟨hop, himm, hB, hA⟩ := fields_formatM op imm7 rB rA
  rw [e] at hop himm hB hA
  exact h ⟨hop.symm, himm.symm, hB.symm, hA.symm⟩

theorem formatU_ne_zero {op : BitVec 3} (h : op ≠ 0) (imm10 : BitVec 10) (low : BitVec 3) :
    formatU op imm10 low ≠ 0 := by
  intro e
  have hop := (fields_formatU op imm10 low).1
  rw [e] at hop
  exact h hop.symm

theorem formatJ_ne_zero (imm6 : BitVec 6) (rB rA : Reg) : formatJ imm6 rB rA ≠ 0 := by
  intro e
  have hop := (fields_formatJ imm6 rB rA).1
  rw [e] at hop
  cases hop

theorem decodeWord_formatU_branch (imm10 : BitVec 10) (cond : BitVec 3) :
    decodeWord (formatU 6 imm10 cond) = decodeBranch (formatU 6 imm10 cond) := by
  rw [decodeWord, if_neg (formatU_ne_zero (by decide) imm10 cond)]
  simp

theorem decodeWord_formatJ (imm6 : BitVec 6) (rB rA : Reg) :
    decodeWord (formatJ imm6 rB rA) = .jal rA rB imm6 := by
  rw [decodeWord, if_neg (formatJ_ne_zero imm6 rB rA)]
  simp

theorem decodeWord_formatX (x : BitVec 3) (rC rB rA : Reg) :
    decodeWord (formatX x rC rB rA) = decodeXop (formatX x rC rB rA) :=
  decodeWord_eq_decodeXop (by rw [formatX_toNat]; omega)

theorem decodeWord_formatY (y : BitVec 3) (rB rA : Reg) :
    decodeWord (formatY y rB rA) = decodeYop (formatY y rB rA) := by
  have h := formatY_toNat y rB rA
  rw [decodeWord_eq_decodeXop (by omega), decodeXop_eq_decodeYop (by omega)]

theorem decodeWord_formatZ (z : BitVec 3) (rA : Reg) : decodeWord (formatZ z rA) = decodeZop (formatZ z rA) := by
  have h := formatZ_toNat z rA
  rw [decodeWord_eq_decodeXop (by omega), decodeXop_eq_decodeYop (by omega), decodeYop_eq_decodeZop (by omega)]

/-- Decoding inverts encoding: the tree goes to the instruction's format, whose fields are its own. -/
theorem decodeWord_encode {i : Instr} (h : i.wf = true) : decodeWord (encode i) = i := by
  cases i with
  | illegal0 => rfl
  | ldw rA rB imm7 =>
    rw [Instr.wf_iff] at h
    have hne : formatM 0 imm7 rB rA ≠ 0 := formatM_ne_zero fun ⟨_, himm, hB, hA⟩ => h (by rw [himm, hB, hA])
    rw [encode, decodeWord, if_neg hne]
    simp
  | ldb rA rB imm7 | stw rA rB imm7 | stb rA rB imm7 | adi rA rB imm7 =>
    rw [encode, decodeWord, if_neg (formatM_ne_zero (by simp))]
    simp
  | lui rA imm10 =>
    rw [encode, decodeWord, if_neg (formatU_ne_zero (by decide) _ _)]
    simp
  | brAlways imm10 | brLink imm10 | brEq imm10 | brNe imm10 | brUge imm10 | brUlt imm10 | brSge imm10 | brSlt imm10 =>
    rw [encode, decodeWord_formatU_branch, decodeBranch]
    simp
  | jal rA rB imm6 => exact decodeWord_formatJ imm6 rB rA
  | sbb rA rB rC | adc rA rB rC | sub rA rB rC | add rA rB rC | xor rA rB rC | or rA rB rC | and rA rB rC =>
    rw [encode, decodeWord_formatX, decodeXop]
    simp
  | lsp rA rB | lsi rA rB | ssp rA rB | ssi rA rB | lcw rA rB | sys rA rB | y06 rA rB =>
    rw [encode, decodeWord_formatY, decodeYop]
    simp
  | not rA | neg rA | zxt rA | sxt rA | sra rA | srl rA | dub rA =>
    rw [encode, decodeWord_formatZ, decodeZop]
    simp
  | ccf | scf | di | ei | hlt | brk | rti | die => rfl

/-- Settles O1: the word of an instruction has its format, so the tree leads back to its constructor and its fields. -/
theorem decodeInvertsEncode : Obligations.DecodeInvertsEncode := fun _ h => decodeWord_encode h

/-- A decoding is never the one instruction that has no word: that would be the decoding of the word 0. -/
theorem decodeWord_wf (w : Word) : (decodeWord w).wf = true := by
  rw [Instr.wf_iff]
  intro h
  obtain rfl : encode (.ldw 0 0 0) = w := h ▸ encode_decodeWord w
  cases h

/-- Settles O2: at each leaf of the tree the fields read are those the format puts back. -/
theorem encodeInvertsDecode : Obligations.EncodeInvertsDecode := fun w => ⟨decodeWord_wf w, encode_decodeWord w⟩

/-! ### The opcode map (R105) -/

/-- The words of a row are the words of its instructions. -/
theorem exists_encode_of_matches {w : Word} {j : Instr} (h : w &&& j.row.1 = j.row.2) :
    ∃ i : Instr, i.row = j.row ∧ encode i = w := by
  cases j with
  | illegal0 => exact ⟨.illegal0, rfl, eq_of_masked_all h⟩
  | ldw => exact ⟨.ldw (fieldA w) (fieldB w) (fieldImm7 w), rfl, formatM_of_masked h⟩
  | ldb => exact ⟨.ldb (fieldA w) (fieldB w) (fieldImm7 w), rfl, formatM_of_masked h⟩
  | stw => exact ⟨.stw (fieldA w) (fieldB w) (fieldImm7 w), rfl, formatM_of_masked h⟩
  | stb => exact ⟨.stb (fieldA w) (fieldB w) (fieldImm7 w), rfl, formatM_of_masked h⟩
  | adi => exact ⟨.adi (fieldA w) (fieldB w) (fieldImm7 w), rfl, formatM_of_masked h⟩
  | lui => exact ⟨.lui (fieldA w) (fieldImm10 w), rfl, formatU_of_masked h⟩
  | brAlways => exact ⟨.brAlways (fieldImm10 w), rfl, formatU_of_masked_low h⟩
  | brLink => exact ⟨.brLink (fieldImm10 w), rfl, formatU_of_masked_low h⟩
  | brEq => exact ⟨.brEq (fieldImm10 w), rfl, formatU_of_masked_low h⟩
  | brNe => exact ⟨.brNe (fieldImm10 w), rfl, formatU_of_masked_low h⟩
  | brUge => exact ⟨.brUge (fieldImm10 w), rfl, formatU_of_masked_low h⟩
  | brUlt => exact ⟨.brUlt (fieldImm10 w), rfl, formatU_of_masked_low h⟩
  | brSge => exact ⟨.brSge (fieldImm10 w), rfl, formatU_of_masked_low h⟩
  | brSlt => exact ⟨.brSlt (fieldImm10 w), rfl, formatU_of_masked_low h⟩
  | jal => exact ⟨.jal (fieldA w) (fieldB w) (fieldImm6 w), rfl, formatJ_of_masked h⟩
  | sbb => exact ⟨.sbb (fieldA w) (fieldB w) (fieldC w), rfl, formatX_of_masked h⟩
  | adc => exact ⟨.adc (fieldA w) (fieldB w) (fieldC w), rfl, formatX_of_masked h⟩
  | sub => exact ⟨.sub (fieldA w) (fieldB w) (fieldC w), rfl, formatX_of_masked h⟩
  | add => exact ⟨.add (fieldA w) (fieldB w) (fieldC w), rfl, formatX_of_masked h⟩
  | xor => exact ⟨.xor (fieldA w) (fieldB w) (fieldC w), rfl, formatX_of_masked h⟩
  | or => exact ⟨.or (fieldA w) (fieldB w) (fieldC w), rfl, formatX_of_masked h⟩
  | and => exact ⟨.and (fieldA w) (fieldB w) (fieldC w), rfl, formatX_of_masked h⟩
  | lsp => exact ⟨.lsp (fieldA w) (fieldB w), rfl, formatY_of_masked h⟩
  | lsi => exact ⟨.lsi (fieldA w) (fieldB w), rfl, formatY_of_masked h⟩
  | ssp => exact ⟨.ssp (fieldA w) (fieldB w), rfl, formatY_of_masked h⟩
  | ssi => exact ⟨.ssi (fieldA w) (fieldB w), rfl, formatY_of_masked h⟩
  | lcw => exact ⟨.lcw (fieldA w) (fieldB w), rfl, formatY_of_masked h⟩
  | sys => exact ⟨.sys (fieldA w) (fieldB w), rfl, formatY_of_masked h⟩
  | y06 => exact ⟨.y06 (fieldA w) (fieldB w), rfl, formatY_of_masked h⟩
  | not => exact ⟨.not (fieldA w), rfl, formatZ_of_masked h⟩
  | neg => exact ⟨.neg (fieldA w), rfl, formatZ_of_masked h⟩
  | zxt => exact ⟨.zxt (fieldA w), rfl, formatZ_of_masked h⟩
  | sxt => exact ⟨.sxt (fieldA w), rfl, formatZ_of_masked h⟩
  | sra => exact ⟨.sra (fieldA w), rfl, formatZ_of_masked h⟩
  | srl => exact ⟨.srl (fieldA w), rfl, formatZ_of_masked h⟩
  | dub => exact ⟨.dub (fieldA w), rfl, formatZ_of_masked h⟩
  | ccf => exact ⟨.ccf, rfl, eq_of_masked_all h⟩
  | scf => exact ⟨.scf, rfl, eq_of_masked_all h⟩
  | di => exact ⟨.di, rfl, eq_of_masked_all h⟩
  | ei => exact ⟨.ei, rfl, eq_of_masked_all h⟩
  | hlt => exact ⟨.hlt, rfl, eq_of_masked_all h⟩
  | brk => exact ⟨.brk, rfl, eq_of_masked_all h⟩
  | rti => exact ⟨.rti, rfl, eq_of_masked_all h⟩
  | die => exact ⟨.die, rfl, eq_of_masked_all h⟩

open Laws in
theorem encode_matchesRow : ∀ i : Instr, MatchesRow.Statement i
  | .illegal0 => MatchesRow.illegal0 | .ldw _ _ _ => MatchesRow.ldw _ _ _ | .ldb _ _ _ => MatchesRow.ldb _ _ _
  | .stw _ _ _ => MatchesRow.stw _ _ _ | .stb _ _ _ => MatchesRow.stb _ _ _ | .adi _ _ _ => MatchesRow.adi _ _ _
  | .lui _ _ => MatchesRow.lui _ _ | .brAlways _ => MatchesRow.brAlways _ | .brLink _ => MatchesRow.brLink _
  | .brEq _ => MatchesRow.brEq _ | .brNe _ => MatchesRow.brNe _ | .brUge _ => MatchesRow.brUge _
  | .brUlt _ => MatchesRow.brUlt _ | .brSge _ => MatchesRow.brSge _ | .brSlt _ => MatchesRow.brSlt _
  | .jal _ _ _ => MatchesRow.jal _ _ _ | .sbb _ _ _ => MatchesRow.sbb _ _ _ | .adc _ _ _ => MatchesRow.adc _ _ _
  | .sub _ _ _ => MatchesRow.sub _ _ _ | .add _ _ _ => MatchesRow.add _ _ _ | .xor _ _ _ => MatchesRow.xor _ _ _
  | .or _ _ _ => MatchesRow.or _ _ _ | .and _ _ _ => MatchesRow.and _ _ _ | .lsp _ _ => MatchesRow.lsp _ _
  | .lsi _ _ => MatchesRow.lsi _ _ | .ssp _ _ => MatchesRow.ssp _ _ | .ssi _ _ => MatchesRow.ssi _ _
  | .lcw _ _ => MatchesRow.lcw _ _ | .sys _ _ => MatchesRow.sys _ _ | .y06 _ _ => MatchesRow.y06 _ _
  | .not _ => MatchesRow.not _ | .neg _ => MatchesRow.neg _ | .zxt _ => MatchesRow.zxt _ | .sxt _ => MatchesRow.sxt _
  | .sra _ => MatchesRow.sra _ | .srl _ => MatchesRow.srl _ | .dub _ => MatchesRow.dub _ | .ccf => MatchesRow.ccf
  | .scf => MatchesRow.scf | .di => MatchesRow.di | .ei => MatchesRow.ei | .hlt => MatchesRow.hlt
  | .brk => MatchesRow.brk | .rti => MatchesRow.rti | .die => MatchesRow.die

/-- A word matches the row of its decoding. -/
theorem decodeWord_matches (w : Word) : w &&& (decodeWord w).row.1 = (decodeWord w).row.2 := by
  have h : encode (decodeWord w) &&& (decodeWord w).row.1 = (decodeWord w).row.2 := encode_matchesRow _
  rwa [encode_decodeWord] at h

/-- The illegal word's row is its own. -/
theorem eq_illegal0_of_row {j : Instr} (h : j.row = Instr.illegal0.row) : j = .illegal0 := by
  cases j with
  | illegal0 => rfl
  | _ => simp [Instr.row] at h

/-- Settles O3: the decoding matches its own row, and a word of a row is the word of an instruction of that row, which
it decodes to unless it is the word 0. -/
theorem opcodeMap : Obligations.OpcodeMap := by
  intro w j
  constructor
  · intro hrow
    refine ⟨hrow ▸ decodeWord_matches w, ?_⟩
    rintro rfl
    exact eq_illegal0_of_row hrow.symm
  · rintro ⟨hmatch, hzero⟩
    obtain ⟨i, hrow, rfl⟩ := exists_encode_of_matches hmatch
    by_cases hw : encode i = 0
    · rw [hzero hw, hw]; rfl
    · have hwf : i.wf = true := i.wf_iff.mpr (by rintro rfl; exact hw rfl)
      rw [decodeWord_encode hwf, hrow]

/-! ### Words written out (R101, R102) -/

/-- Settles O4: each word is, bit for bit, the encoding of its instruction. -/
theorem wordsDecode : Obligations.WordsDecode :=
  ⟨decodeWord_encode (i := .ldw 1 2 0b1111110) rfl, decodeWord_encode (i := .lui 1 0x48) rfl,
    decodeWord_encode (i := .brNe 0b1111111101) rfl, decodeWord_encode (i := .jal 5 5 0x24) rfl,
    decodeWord_encode (i := .sub 0 1 2) rfl, decodeWord_encode (i := .ssi 1 2) rfl,
    decodeWord_encode (i := .sys 3 0) rfl, decodeWord_encode (i := .dub 1) rfl, decodeWord_encode (i := .rti) rfl,
    decodeWord_encode (i := .illegal0) rfl,
    congrArg (fun i => Except.ok (i, [0x55])) (decodeWord_encode (i := .lui 5 1) rfl)⟩

end Sys2Proof
end

section
/-! PROOFS. Reserved words (spec/30_encoding.md R107, spec/44_yop_special.md R185, R186, spec/46_vop_system.md R229). -/

namespace Sys2Proof.Machine

/-- SYS with a nonzero rB field is no system call (R185). -/
theorem execSys_illegal {rB : Reg} (h : rB ≠ 0) (n : Reg) (s : State) :
    execSys n rB s = .next (s.enter .illegalInstruction) := if_neg h

/-- The reserved words raise the trap in every state (R107). -/
theorem exec_reserved {i : Instr} (h : i = .die ∨ (∃ rA rB, i = .y06 rA rB) ∨ ∃ n rB, i = .sys n rB ∧ rB ≠ 0)
    (s : State) : exec i s = .next (s.enter .illegalInstruction) := by
  rcases h with rfl | ⟨rA, rB, rfl⟩ | ⟨n, rB, rfl, hrB⟩
  · rfl
  · rfl
  · exact execSys_illegal hrB n s

/-- Settles O44: each reserved word raises the trap, and its entry leaves what R270 says. -/
theorem reservedWordsAreIllegal : Obligations.ReservedWordsAreIllegal := by
  intro i s hi
  refine ⟨exec_reserved hi s, fun hcan => ?_⟩
  have entered := State.enter_entered hcan .illegalInstruction
  exact ⟨_, exec_reserved hi s, entered, entered.irr⟩

end Sys2Proof.Machine
end

section
/-! PROOFS. Loads and stores that reach storage (spec/40_load_store.md R130..R133, spec/44_yop_special.md R184): the byte
accesses, then the results of all five instructions. -/

namespace Sys2Proof.Machine

/-! ### Bytes (R131, R133) -/

section Bytes

variable {s : State} {rA rB : Reg} {imm7 : BitVec 7} {pa : PhysAddr}

/-- Sign extension keeps the number (R5). -/
theorem toInt_sext8 (b : Byte) : (sext8 b).toInt = b.toInt := BitVec.toInt_signExtend_of_le (by decide)

theorem lowByte_toNat (w : Word) : (lowByte w).toNat = w.toNat % 256 := BitVec.extractLsb'_toNat 0 8 w

/-- LDB of a byte that storage holds. -/
theorem exec_ldb_loaded (hok : s.bankOk = true)
    (h : s.Reaches (s.reg rB + BitVec.ofInt 16 imm7.toInt) .dataRead pa) (hpa : s.IsStorage pa) :
    ∃ t, exec (.ldb rA rB imm7) s = .next t ∧ s.Loaded t rA (sext8 (s.byteAt pa)) := by
  have hread : s.readByte (s.reg rB + BitVec.ofInt 16 imm7.toInt) = .ok (s.byteAt pa) s := by
    rw [State.readByte, h, State.checked_ok, State.readPhys_storage hpa]
  rw [exec_ldb, hread, Res.bind_ok]
  exact Res.intoReg_loaded hok rA rfl

/-- A byte written to storage is the only thing that changes. -/
theorem State.setByteAt_onlyMemory (s : State) (pa : PhysAddr) (b : Byte) :
    s.OnlyMemory (s.setByteAt pa b).advance (fun x => x = pa) :=
  ⟨⟨rfl, rfl, rfl, rfl, rfl, rfl, rfl, rfl, rfl, rfl, rfl, rfl, rfl, rfl, rfl⟩, fun _ => rfl,
    fun _ hne => s.byteAt_setByteAt_other b hne⟩

/-- STB to RAM: the byte set, then the next instruction. -/
theorem exec_stb_ram (h : s.Reaches (s.reg rB + BitVec.ofInt 16 imm7.toInt) .dataWrite pa) (hpa : s.IsRam pa) :
    exec (.stb rA rB imm7) s = .next (s.setByteAt pa (lowByte (s.reg rA))).advance := by
  rw [exec_stb, State.writeByte, h, State.checked_ok, State.writePhys_ram hpa]
  rfl

end Bytes

/-! ### The results -/

/-- Settles O20: the address translates to where the bytes stand, the reference reads storage, and the register is
written with the word, or with the byte extended to the same number. -/
theorem loadResults : Obligations.LoadResults := by
  intro rA rB imm7 s pa hok
  refine ⟨fun h => ?_, fun h hpa => ?_, fun h => ?_⟩
  · exact exec_ldw_loaded hok (State.wordPair_aligned h.even h.reach) h.low h.high
  · obtain ⟨t, hexec, hload⟩ := exec_ldb_loaded hok h hpa
    exact ⟨t, _, hexec, hload, toInt_sext8 _⟩
  · exact exec_lcw_loaded hok (State.wordPair_aligned h.even h.reach) h.low h.high

/-- Settles O21: the address translates to where the bytes go, and memory is written there alone. -/
theorem storeResults : Obligations.StoreResults := by
  intro rA rB imm7 s pa hw
  refine ⟨fun h => ?_, fun h hpa => ?_⟩
  · exact exec_stw_stored hw (State.wordPair_aligned h.even h.reach) (physAddr_succ_ne pa) h.low h.high
  · refine ⟨_, exec_stb_ram h hpa, rfl, s.setByteAt_onlyMemory pa _, ?_⟩
    have hbyte := State.byteAt_setByteAt_same hw pa (lowByte (s.reg rA))
    exact (congrArg BitVec.toNat hbyte).trans (lowByte_toNat _)

end Sys2Proof.Machine
end

section
/-! PROOFS. ADI and LUI (spec/41_adi_lui.md R140..R142): what each leaves, and the pair of them that loads a constant. -/

namespace Sys2Proof.Machine

/-! ### Frames of instructions whose field 0 is LINK (R14) -/

section Frames

variable {s t u : State} {rA : Reg}

theorem State.regOrLink_of_ne_zero (h : rA ≠ 0) : s.regOrLink rA = s.reg rA := if_neg h

/-- The mode and the context are in the frame, so the current bank still exists. -/
theorem State.OnlyRegOrLinkAndFlags.bankOk_eq (h : s.OnlyRegOrLinkAndFlags t rA) : t.bankOk = s.bankOk :=
  State.bankOk_congr h.singletons.mode h.singletons.context h.singletons.cfg

theorem State.OnlyRegOrLinkAndFlags.trans (h : s.OnlyRegOrLinkAndFlags t rA) (h' : t.OnlyRegOrLinkAndFlags u rA) :
    s.OnlyRegOrLinkAndFlags u rA where
  singletons := h.singletons.trans h'.singletons
  otherBanks d hd :=
    have hno : t.bankNo = s.bankNo := State.bankNo_congr h.singletons.mode h.singletons.context
    (h'.otherBanks d (hno ▸ hd)).trans (h.otherBanks d hd)
  memory pa := (h'.memory pa).trans (h.memory pa)
  mmu :=
    have ⟨hcode, hdata⟩ := h.mmu
    have ⟨hcode', hdata'⟩ := h'.mmu
    ⟨hcode'.trans hcode, hdata'.trans hdata⟩
  regs q hq := (h'.regs q hq).trans (h.regs q hq)
  link hr := (h'.link hr).trans (h.link hr)

/-- With a nonzero field LINK is in the frame too. -/
theorem State.OnlyRegOrLinkAndFlags.onlyRegAndFlags (h : s.OnlyRegOrLinkAndFlags t rA) (hr : rA ≠ 0) :
    s.OnlyRegAndFlags t rA :=
  ⟨h.singletons, h.otherBanks, h.memory, h.mmu, h.regs, h.link hr⟩

end Frames

/-- A register or LINK written, then the next instruction. -/
theorem State.advance_setRegOrLink (s : State) (r : Reg) (v : Word) :
    (s.setRegOrLink r v).advance = (s.setRegOrLink r v).jump (s.pc + 2) := by
  simp [State.advance, State.jump]

/-! ### ADI (R140) -/

/-- Sign extension keeps the number (R103 (a)). -/
theorem toInt_sext7 (imm7 : BitVec 7) : (sext7 imm7).toInt = imm7.toInt := BitVec.toInt_signExtend_of_le (by decide)

/-- ADI writes the adder's result to the register or LINK, and the adder's flags. -/
theorem exec_adi (rA rB : Reg) (imm7 : BitVec 7) (s : State) :
    exec (.adi rA rB imm7) s =
      .next (((s.setRegOrLink rA (s.adiResult rB imm7).1).jump (s.pc + 2)).setFlags (s.adiResult rB imm7).2) := by
  rw [← State.advance_setRegOrLink]
  rfl

/-- Settles O12: the value written and the flags are the adder's on the sign-extended immediate, with no carry in. -/
theorem adiResult : Obligations.AdiResult := by
  intro rA rB imm7 s hok k
  obtain ⟨written, -⟩ := State.setRegOrLink_computed hok rA (s.adiResult rB imm7).1 (s.pc + 2)
  obtain ⟨computed, hflags⟩ := written.withFlags (written.frame.bankOk_eq.trans hok) (s.adiResult rB imm7).2
  have hadder : s.adiResult rB imm7 = addC (s.reg rB) k false := by rw [State.adiResult, sext7_eq]
  have hsum : (addC (s.reg rB) k false).1 = s.reg rB + k := by simp [addC_result]
  have hk : k.toInt = imm7.toInt := by rw [← toInt_sext7, sext7_eq]
  have hv := addC_v (s.reg rB) k false
  rw [hk, Bool.toNat_false, Nat.cast_zero, add_zero] at hv
  refine ⟨_, exec_adi rA rB imm7 s, ?_, rfl, ?_⟩
  · rwa [hadder, hsum] at computed
  · rw [hflags, hadder, ← hsum]
    exact ⟨addC_c _ _ _, addC_z _ _ _, addC_n _ _ _, hv⟩

/-! ### LUI (R141) -/

theorem toNat_upperImmediate (imm10 : BitVec 10) : (upperImmediate imm10).toNat = imm10.toNat * 64 :=
  toNat_concat imm10 0#6

/-- LUI writes the immediate to the register or LINK. -/
theorem exec_lui (rA : Reg) (imm10 : BitVec 10) (s : State) :
    exec (.lui rA imm10) s = .next ((s.setRegOrLink rA (upperImmediate imm10)).jump (s.pc + 2)) := by
  rw [← State.advance_setRegOrLink]
  rfl

/-- Settles O13: the word is of format U with opcode 5, and the value written has the immediate in its upper bits. -/
theorem luiResult : Obligations.LuiResult := by
  intro rA imm10 s hok
  have hword : (encode (.lui rA imm10)).toNat = 5 * 8192 + imm10.toNat * 8 + (regBits rA).toNat :=
    formatU_toNat 5 imm10 (regBits rA)
  rw [regBits_toNat] at hword
  obtain ⟨computed, hflags⟩ := State.setRegOrLink_computed hok rA (upperImmediate imm10) (s.pc + 2)
  exact ⟨by omega, _, exec_lui rA imm10 s, rfl, hflags, _, toNat_upperImmediate imm10, computed⟩

/-! ### A constant in two halves (R142) -/

/-- The low six bits are never negative as a 7-bit immediate. -/
theorem toInt_low6 (k : Word) : (low6 k).toInt = (k.toNat % 64 : Nat) := by
  have hlow : (low6 k).toNat = k.toNat % 64 := by simp [low6]; omega
  rw [BitVec.toInt_eq_toNat_cond, hlow, if_pos (by omega)]

theorem toNat_high10 (k : Word) : (high10 k).toNat = k.toNat / 64 := by
  have hk := k.isLt
  rw [high10, BitVec.extractLsb'_toNat, Nat.shiftRight_eq_div_pow]
  omega

section Halves

variable {k upper : Word}

/-- The halves add up to the constant as unsigned numbers, so with no carry. -/
theorem toNat_halves (h : upper.toNat = (high10 k).toNat * 64) :
    upper.toNat + (BitVec.ofInt 16 (low6 k).toInt).toNat = k.toNat := by
  rw [h, toNat_high10, toInt_low6, BitVec.ofInt_natCast, BitVec.toNat_ofNat]
  omega

/-- They add up to it as signed numbers too, so with no overflow. -/
theorem toInt_halves (h : upper.toNat = (high10 k).toNat * 64) : upper.toInt + (low6 k).toInt = k.toInt := by
  rw [toInt_low6, BitVec.toInt_eq_toNat_cond, BitVec.toInt_eq_toNat_cond, h, toNat_high10]
  omega

theorem halves_add (h : upper.toNat = (high10 k).toNat * 64) : upper + BitVec.ofInt 16 (low6 k).toInt = k := by
  apply BitVec.eq_of_toNat_eq
  rw [BitVec.toNat_add, toNat_halves h, Nat.mod_eq_of_lt k.isLt]

end Halves

/-- Settles O14: LUI leaves the upper half in the register, ADI adds the lower, and the sum is exact both as an unsigned
and as a signed number. -/
theorem loadConstantPair : Obligations.LoadConstantPair := by
  intro rT k s hok hrT
  obtain ⟨-, t, hlui, hpcLui, -, upper, hupper, lui⟩ := luiResult rT (high10 k) s hok
  obtain ⟨u, hadi, adi, hpcAdi, hc, hz, hn, hv⟩ := adiResult rT rT (low6 k) t (lui.frame.bankOk_eq.trans hok)
  have hreg : t.reg rT = upper := by rw [← State.regOrLink_of_ne_zero hrT, lui.value]
  rw [hreg, halves_add hupper] at adi hz hn
  rw [hreg, toNat_halves hupper] at hc
  rw [hreg, toInt_halves hupper] at hv
  have hvalue : u.reg rT = k := by rw [← State.regOrLink_of_ne_zero hrT, adi.value]
  have hpc : u.pc = s.pc + 4 := by rw [hpcAdi, hpcLui, BitVec.add_assoc]; rfl
  have hcarry : u.flags.c = false := Bool.eq_false_iff.mpr fun h => absurd (hc.mp h) (Nat.not_le.mpr k.isLt)
  have hoverflow : u.flags.v = false := Bool.eq_false_iff.mpr fun h => hv.mp h ⟨k.le_toInt, k.toInt_lt⟩
  exact ⟨t, u, hlui, hadi, hvalue, hpc, (lui.frame.trans adi.frame).onlyRegAndFlags hrT, hcarry, hoverflow, hz, hn⟩

end Sys2Proof.Machine
end

section
/-! PROOFS. Control transfer (spec/42_branch_jump.md R150..R153): where BRx and JAL go and what they leave, and the pair
of LUI and JAL that reaches every address. -/

namespace Sys2Proof.Machine

/-! ### The target of a branch (R150) -/

/-- BR_OFFSET_UNIT in bytes (R150, D2). -/
def branchUnitBytes : BranchUnit → Int
  | .instruction => 2
  | .byte => 1

theorem branchDisplacement_eq (u : BranchUnit) (imm10 : BitVec 10) :
    branchDisplacement u imm10 = BitVec.ofInt 16 (branchUnitBytes u * imm10.toInt) := by
  rw [BitVec.ofInt_mul, ← sext10_eq]
  cases u with
  | instruction => rfl
  | byte => exact (one_mul (sext10 imm10)).symm

theorem State.branchTarget_eq (s : State) (imm10 : BitVec 10) :
    s.branchTarget imm10 = BitVec.ofInt 16 (s.pc.toInt + 2 + branchUnitBytes s.cfg.branchUnit * imm10.toInt) := by
  rw [State.branchTarget, branchDisplacement_eq, BitVec.ofInt_add, BitVec.ofInt_add, BitVec.ofInt_toInt]
  rfl

/-! ### Branches that write no register (R150) -/

/-- A branch whose condition on the flags means `p` changes the pc alone, and goes to its target exactly under `p`. -/
theorem exec_branch_onlyPc {i : Instr} {s : State} {cond : Fin 8} {imm10 : BitVec 10} {p : Prop}
    (hexec : exec i s = .next (s.branch cond imm10)) (hcond : branchTaken cond s.flags = true ↔ p) :
    ∃ a : Word, exec i s = .next { s with pc := a } ∧
      (p → a = BitVec.ofInt 16 (s.pc.toInt + 2 + branchUnitBytes s.cfg.branchUnit * imm10.toInt)) ∧
      (¬p → a = s.pc + 2) := by
  obtain ⟨taken, notTaken⟩ := exec_branch_iff hexec rfl hcond
  by_cases hp : p
  · exact ⟨_, taken hp, fun _ => s.branchTarget_eq imm10, fun hnp => absurd hp hnp⟩
  · exact ⟨_, notTaken hp, fun hp' => absurd hp' hp, fun _ => rfl⟩

section Conditions

variable (f : Flags)

theorem branchTaken_always : branchTaken 0 f = true ↔ True := iff_true_intro rfl

theorem branchTaken_eq : branchTaken 2 f = true ↔ f.z = true := Iff.rfl

theorem branchTaken_ne : branchTaken 3 f = true ↔ f.z = false := by simp [branchTaken]

theorem branchTaken_uge : branchTaken 4 f = true ↔ f.c = true := Iff.rfl

theorem branchTaken_ult : branchTaken 5 f = true ↔ f.c = false := by simp [branchTaken]

theorem branchTaken_sge : branchTaken 6 f = true ↔ f.n = f.v := by simp [branchTaken]

theorem branchTaken_slt : branchTaken 7 f = true ↔ f.n ≠ f.v := by simp [branchTaken]

end Conditions

/-- Settles O16: each selector's row of the condition table, on the one argument for every branch. -/
theorem conditionalBranches : Obligations.ConditionalBranches := fun _ s =>
  ⟨exec_branch_onlyPc rfl (branchTaken_always s.flags), exec_branch_onlyPc rfl (branchTaken_eq s.flags),
    exec_branch_onlyPc rfl (branchTaken_ne s.flags), exec_branch_onlyPc rfl (branchTaken_uge s.flags),
    exec_branch_onlyPc rfl (branchTaken_ult s.flags), exec_branch_onlyPc rfl (branchTaken_sge s.flags),
    exec_branch_onlyPc rfl (branchTaken_slt s.flags)⟩

/-! ### Branch to subroutine (R150, D11) -/

/-- The linking branch is a write of destination field 0, which is LINK (R14), and a jump. -/
theorem exec_brLink (imm10 : BitVec 10) (s : State) :
    exec (.brLink imm10) s = .next ((s.setRegOrLink 0 (s.pc + 2)).jump (s.branchTarget imm10)) := rfl

/-- Settles O17: a write of LINK and a jump, the target in plain numbers. -/
theorem branchToSubroutine : Obligations.BranchToSubroutine := by
  intro imm10 s hok unit
  obtain ⟨computed, hflags⟩ := State.setRegOrLink_computed hok 0 (s.pc + 2) (s.branchTarget imm10)
  exact ⟨_, exec_brLink imm10 s, s.branchTarget_eq imm10, hflags, computed⟩

/-! ### JAL (R151) -/

theorem exec_jal (rA rB : Reg) (imm6 : BitVec 6) (s : State) :
    exec (.jal rA rB imm6) s =
      .next ((s.setRegOrLink rA (s.pc + 2)).jump (jalTarget s.cfg.jalTarget (s.regOrLink rB) imm6)) := rfl

theorem toNat_jalTarget_append (base : Word) (imm6 : BitVec 6) :
    (jalTarget .append base imm6).toNat = base.toNat / 64 * 64 + imm6.toNat := by
  have hhigh : (base.extractLsb' 6 10).toNat = base.toNat / 64 := toNat_high10 base
  rw [← hhigh]
  exact toNat_concat _ _

theorem toNat_jalTarget_add (base : Word) (imm6 : BitVec 6) :
    (jalTarget .add base imm6).toNat = (base.toNat + imm6.toNat) % 65536 := by
  simp [jalTarget]

/-- Settles O18: a write of the register or LINK and a jump, the target computed from the state before the write. -/
theorem jalResult : Obligations.JalResult := by
  intro rA rB imm6 s hok
  obtain ⟨computed, hflags⟩ :=
    State.setRegOrLink_computed hok rA (s.pc + 2) (jalTarget s.cfg.jalTarget (s.regOrLink rB) imm6)
  refine ⟨_, exec_jal rA rB imm6 s, hflags, computed, fun hmode => ?_, fun hmode => ?_⟩
  · rw [State.jump_pc, hmode, toNat_jalTarget_append]
  · rw [State.jump_pc, hmode, toNat_jalTarget_add]

/-! ### LUI, then JAL (R153) -/

/-- A multiple of 64 ends in six zero bits. -/
theorem extract_low_eq_zero {w : Word} {n : Nat} (h : w.toNat = n * 64) : w.extractLsb' 0 6 = 0#6 := by
  apply BitVec.eq_of_toNat_eq
  simp [h]

/-- Settles O19: LUI leaves the upper bits of the target with six zeros below, so appending the lower bits and adding
them are the same. -/
theorem farTransfer : Obligations.FarTransfer := by
  intro rT rX target s hok
  obtain ⟨-, t, hlui, hpcLui, -, upper, hupper, lui⟩ := luiResult rT (high10 target) s hok
  obtain ⟨u, hjal, -, jal, happend, hadd⟩ :=
    jalResult rX rT (target.extractLsb' 0 6) t (lui.frame.bankOk_eq.trans hok)
  have hlow : (target.extractLsb' 0 6).toNat = target.toNat % 64 := BitVec.extractLsb'_toNat 0 6 target
  rw [lui.value, hupper, toNat_high10, hlow] at happend hadd
  have htarget : u.pc = target := by
    apply BitVec.eq_of_toNat_eq
    cases hmode : t.cfg.jalTarget with
    | append => have := happend hmode; omega
    | add => have := hadd hmode; have := target.isLt; omega
  have hreturn : u.regOrLink rX = s.pc + 4 := by rw [jal.value, hpcLui, BitVec.add_assoc]; rfl
  exact ⟨t, u, hlui, lui.value ▸ extract_low_eq_zero hupper, hjal, htarget, hreturn⟩

end Sys2Proof.Machine
end

section
/-! PROOFS. ADD, ADC, SUB, SBB, XOR, OR, AND (spec/43_xop_alu.md R160..R167): what each leaves, and the pairs of them that
are 32-bit arithmetic. -/

namespace Sys2Proof.Machine

/-! ### ADC and SBB in the model's terms (R160, R161) -/

theorem exec_adc (rA rB rC : Reg) (s : State) :
    exec (.adc rA rB rC) s = .next (s.putResult rA (addC (s.reg rB) (s.reg rC) s.flags.c)) := rfl

theorem exec_sbb (rA rB rC : Reg) (s : State) :
    exec (.sbb rA rB rC) s = .next (s.putResult rA (subtractBorrow (s.reg rB) (s.reg rC) s.flags.c)) := rfl

/-! ### What a result leaves (R167) -/

section Results

variable {s : State} {rA : Reg} {a b r : Word} {c : Bool}

theorem State.reg_putResult_same (h : s.bankOk = true) (p : Word × Flags) (hr : rA ≠ 0) :
    (s.putResult rA p).reg rA = p.1 :=
  have ⟨computed, _⟩ := State.putResult_computed h rA p
  computed.value hr

theorem State.reg_putResult_other (h : s.bankOk = true) (p : Word × Flags) {q : Reg} (hq : q ≠ rA) :
    (s.putResult rA p).reg q = s.reg q :=
  have ⟨computed, _⟩ := State.putResult_computed h rA p
  computed.frame.regs q hq

theorem State.flags_putResult (h : s.bankOk = true) (p : Word × Flags) : (s.putResult rA p).flags = p.2 :=
  have ⟨_, hflags⟩ := State.putResult_computed h rA p
  hflags

/-- An adder's result written: Z and N are the result's, and what its C and V mean is handed on. -/
theorem State.putResult_addC (h : s.bankOk = true) (rA : Reg) {carry fits : Prop} (hr : (addC a b c).1 = r)
    (hc : (addC a b c).2.c = true ↔ carry) (hv : (addC a b c).2.v = true ↔ ¬fits) :
    s.Computed (s.putResult rA (addC a b c)) rA r ∧ ((s.putResult rA (addC a b c)).flags.c = true ↔ carry) ∧
      ((s.putResult rA (addC a b c)).flags.z = true ↔ r = 0) ∧
      ((s.putResult rA (addC a b c)).flags.n = true ↔ r.toInt < 0) ∧
      ((s.putResult rA (addC a b c)).flags.v = true ↔ ¬fits) := by
  obtain ⟨computed, hflags⟩ := State.putResult_computed h rA (addC a b c)
  rw [hflags, ← hr]
  exact ⟨computed, hc, addC_z a b c, addC_n a b c, hv⟩

/-- A logic instruction's result: Z and N are the result's. -/
theorem State.logic_computed (h : s.bankOk = true) (rA : Reg) (r : Word) :
    s.Computed (s.logic rA r) rA r ∧ ((s.logic rA r).flags.z = true ↔ r = 0) ∧
      ((s.logic rA r).flags.n = true ↔ r.toInt < 0) := by
  obtain ⟨computed, hflags⟩ := State.putResult_computed (s.drawn_bankOk.trans h) rA (r, logicFlags r s.anyFlags)
  have hlogic : (s.logic rA r).flags = logicFlags r s.anyFlags := hflags
  rw [hlogic, toInt_lt_zero_iff_msb]
  exact ⟨computed.of_draws, decide_eq_true_iff, Iff.rfl⟩

end Results

/-- Settles O5: each is the adder, on the complement of the subtrahend for SUB and SBB, and the adder's result and flags
are what is written. -/
theorem addSubResults : Obligations.AddSubResults := by
  intro rA rB rC s hok a b cin sets
  have hcin : cin = s.flags.c.toNat := (Bool.cond_eq_ite ..).symm
  clear_value cin
  subst hcin
  have hadd : (addC a b false).1 = a + b := by simp [addC_result]
  refine ⟨⟨_, rfl, State.putResult_addC hok rA hadd ?_ ?_⟩,
    ⟨_, rfl, State.putResult_addC hok rA (addC_result a b _) (addC_c a b _) (addC_v a b _)⟩,
    ⟨_, rfl, State.putResult_addC hok rA (subtract_result a b) (subtract_c a b) ?_⟩,
    ⟨_, rfl, State.putResult_addC hok rA (subtractBorrow_result a b _) (subtractBorrow_c a b _)
      (subtractBorrow_v a b _)⟩⟩
  · simpa using addC_c a b false
  · simpa using addC_v a b false
  · simpa [subtract, subtractBorrow] using subtractBorrow_v a b true

/-- Settles O8: the operation on words is the operation on each pair of bits. -/
theorem logicResults : Obligations.LogicResults := by
  intro rA rB rC s hok sets
  have ⟨xorComputed, xorFlags⟩ := State.logic_computed hok rA (s.reg rB ^^^ s.reg rC)
  have ⟨orComputed, orFlags⟩ := State.logic_computed hok rA (s.reg rB ||| s.reg rC)
  have ⟨andComputed, andFlags⟩ := State.logic_computed hok rA (s.reg rB &&& s.reg rC)
  exact ⟨⟨_, _, rfl, xorComputed, fun _ => BitVec.getLsbD_xor, xorFlags⟩,
    ⟨_, _, rfl, orComputed, fun _ => BitVec.getLsbD_or, orFlags⟩,
    ⟨_, _, rfl, andComputed, fun _ => BitVec.getLsbD_and, andFlags⟩⟩

/-! ### Two adders in a chain (R6) -/

/-- Result and carry together are the exact sum. -/
theorem addC_toNat (a b : Word) (c : Bool) :
    (addC a b c).1.toNat + 2 ^ 16 * (addC a b c).2.c.toNat = a.toNat + b.toNat + c.toNat := by
  have hsum : (addC a b c).1.toNat = (a.toNat + b.toNat + c.toNat) % 2 ^ 16 := by simp [addC]
  have hcarry := addC_c a b c
  have ha := a.isLt
  have hb := b.isLt
  have hc := c.toNat_le
  rw [hsum]
  cases h : (addC a b c).2.c <;> simp [h] at hcarry ⊢ <;> omega

/-- A 32-bit result and its carry, given together as an exact sum. -/
theorem eq_ofNat_and_carry_iff {r : BitVec 32} {c : Bool} {n : Nat} (h : r.toNat + 2 ^ 32 * c.toNat = n) :
    r = BitVec.ofNat 32 n ∧ (c = true ↔ 2 ^ 32 ≤ n) := by
  have hr := r.isLt
  refine ⟨BitVec.eq_of_toNat_eq ?_, ?_⟩
  · rw [BitVec.toNat_ofNat]; omega
  · cases c <;> simp at h ⊢ <;> omega

section Chain

variable (aHi aLo bHi bLo : Word)

/-- The carry of the low adder into the high one makes the two a 32-bit adder. -/
theorem addC_chain_toNat (c : Bool) :
    ((addC aHi bHi (addC aLo bLo c).2.c).1 ++ (addC aLo bLo c).1).toNat +
        2 ^ 32 * (addC aHi bHi (addC aLo bLo c).2.c).2.c.toNat =
      (aHi ++ aLo).toNat + (bHi ++ bLo).toNat + c.toNat := by
  have hlow := addC_toNat aLo bLo c
  have hhigh := addC_toNat aHi bHi (addC aLo bLo c).2.c
  simp only [toNat_concat]
  omega

/-- With no carry in the chain adds. -/
theorem addC_chain_add :
    ((addC aHi bHi (addC aLo bLo false).2.c).1 ++ (addC aLo bLo false).1 : BitVec 32) = (aHi ++ aLo) + (bHi ++ bLo) ∧
      ((addC aHi bHi (addC aLo bLo false).2.c).2.c = true ↔ 2 ^ 32 ≤ (aHi ++ aLo).toNat + (bHi ++ bLo).toNat) := by
  obtain ⟨hsum, hcarry⟩ := eq_ofNat_and_carry_iff (addC_chain_toNat aHi aLo bHi bLo false)
  exact ⟨by rw [hsum]; simp [BitVec.ofNat_add], hcarry⟩

/-- On the complement of the second operand, with a carry in, it subtracts. -/
theorem subtractBorrow_chain_sub :
    ((subtractBorrow aHi bHi (subtract aLo bLo).2.c).1 ++ (subtract aLo bLo).1 : BitVec 32) =
        (aHi ++ aLo) - (bHi ++ bLo) ∧
      ((subtractBorrow aHi bHi (subtract aLo bLo).2.c).2.c = true ↔ (bHi ++ bLo).toNat ≤ (aHi ++ aLo).toNat) := by
  obtain ⟨hsum, hcarry⟩ := eq_ofNat_and_carry_iff (addC_chain_toNat aHi aLo (~~~bHi) (~~~bLo) true)
  have hnot : (~~~bHi ++ ~~~bLo).toNat = 2 ^ 32 - 1 - (bHi ++ bLo).toNat := by
    rw [toNat_concat, toNat_concat, toNat_not, toNat_not]; omega
  have hb := (bHi ++ bLo).isLt
  rw [hnot] at hsum hcarry
  refine ⟨hsum.trans (BitVec.eq_of_toNat_eq ?_), hcarry.trans ?_⟩
  · rw [BitVec.toNat_ofNat, BitVec.toNat_sub, Bool.toNat_true]; omega
  · rw [Bool.toNat_true]; omega

end Chain

/-! ### Two results in a pair of registers -/

/-- Two instructions that write results to different registers leave both, and the flags of the second. -/
theorem exec_pair_putResult {s : State} {rLo rHi : Reg} {iLo iHi : Instr} {lo hi : Word × Flags} {v : BitVec 32} {carry : Prop}
    (hok : s.bankOk = true) (hLo : rLo ≠ 0) (hHi : rHi ≠ 0) (hne : rLo ≠ rHi)
    (hexecLo : exec iLo s = .next (s.putResult rLo lo))
    (hexecHi : exec iHi (s.putResult rLo lo) = .next ((s.putResult rLo lo).putResult rHi hi))
    (hpair : (hi.1 ++ lo.1 : BitVec 32) = v ∧ (hi.2.c = true ↔ carry)) :
    ∃ t u, exec iLo s = .next t ∧ exec iHi t = .next u ∧
      (u.reg rHi ++ u.reg rLo : BitVec 32) = v ∧ (u.flags.c = true ↔ carry) := by
  have hok' : (s.putResult rLo lo).bankOk = true := hok
  refine ⟨_, _, hexecLo, hexecHi, ?_⟩
  rwa [State.reg_putResult_same hok' hi hHi, State.reg_putResult_other hok' hi hne, State.reg_putResult_same hok lo hLo,
    State.flags_putResult hok']

/-- Settles O7: the second instruction reads the high words unchanged and the carry the first left, so the pair is the
chain of two adders. -/
theorem doubleWordArithmetic : Obligations.DoubleWordArithmetic := by
  intro dLo dHi aLo aHi bLo bHi s hok hLo hHi hne ha hb x y
  refine ⟨exec_pair_putResult hok hLo hHi hne rfl ?_ (addC_chain_add _ _ _ _),
    exec_pair_putResult hok hLo hHi hne rfl ?_ (subtractBorrow_chain_sub _ _ _ _)⟩
  · rw [exec_adc, State.reg_putResult_other hok _ ha, State.reg_putResult_other hok _ hb, State.flags_putResult hok]
  · rw [exec_sbb, State.reg_putResult_other hok _ ha, State.reg_putResult_other hok _ hb, State.flags_putResult hok]

end Sys2Proof.Machine
end

section
/-! PROOFS. LSI, SSI and SYS (spec/44_yop_special.md R181, R183, R185): what LSI does with a word of storage, by what its
special-register address reaches, what SSI stores and leaves, and the entry of a system call. -/

namespace Sys2Proof.Machine

/-! ### SYS (R185) -/

/-- SYS with rB field 0 is a system call in both modes (R185). -/
theorem execSys_call (n : Reg) (s : State) : execSys n 0 s = .next (s.enter (.sys n)) := if_pos rfl

/-- Settles O42: the call is the entry of its trap, and vector 8 + n stands at address 4 * (8 + n). -/
theorem sysEntry : Obligations.SysEntry := by
  intro n s hcan
  have entered := State.enter_entered hcan (.sys n)
  refine ⟨_, execSys_call n s, entered, ?_, entered.irr⟩
  rw [entered.pc, TrapKind.vector, BitVec.toNat_ofNat]
  omega

/-! ### Special registers whose write completes (R20, R31) -/

theorem sprAt_low_ofContext : ∀ n < 8, (sprAt (BitVec.ofNat 7 n)).ofContext = false := by decide

/-- Only the registers of a context that does not exist refuse a write. -/
theorem State.sprWrite_completes {s : State} {r : Spr}
    (h : r.ofContext = true → s.context.toNat < s.cfg.nctx) (v : Word) : ∃ t, s.sprWrite r v = .ok () t := by
  cases r with
  | userReg i | userCode i | userData i => exact ⟨_, if_pos (h rfl)⟩
  | _ => exact ⟨_, rfl⟩

/-- An address in reach of the mode, where CONTEXT names a context or the address is below 8, names a register whose
write completes. -/
theorem State.sprCheck_writable {s : State} {a : Word}
    (h : a.toNat ≤ 7 ∨ s.mode = .kernel ∧ a.toNat ≤ 127 ∧ s.context.toNat < s.cfg.nctx) :
    ∃ r, s.sprCheck a = .ok r ∧ ∀ v, ∃ t, s.sprWrite r v = .ok () t := by
  rcases h with hlow | ⟨hm, hreach, hctx⟩
  · refine ⟨_, State.sprCheck_eq rfl (.inl hlow) rfl, State.sprWrite_completes fun hr => ?_⟩
    rw [sprAt_low_ofContext _ (by omega)] at hr
    cases hr
  · exact ⟨_, State.sprCheck_eq rfl (.inr ⟨hm, hreach⟩) rfl, State.sprWrite_completes fun _ => hctx⟩

/-! ### LSI of a word that reaches storage (R181) -/

section Lsi

variable {s t : State} {rA rB : Reg} {r : Spr} {pa : PhysAddr}

/-- LSI of a register whose write of the word read ends in `t`. -/
theorem exec_lsi_written (h : s.WordReaches (s.reg rB) .dataRead pa) (hr : s.sprCheck (s.reg rA) = .ok r)
    (hw : s.sprWrite r (s.wordAt pa) = .ok () t) : exec (.lsi rA rB) s = .next t.advance := by
  rw [exec_lsi_reach hr, State.readWord_storage h, Res.bind_ok, hw]
  rfl

/-- A special-register write leaves storage, and the next instruction follows. -/
theorem exec_lsi_completes (h : s.WordReaches (s.reg rB) .dataRead pa) (hr : s.sprCheck (s.reg rA) = .ok r)
    (hw : s.sprWrite r (s.wordAt pa) = .ok () t) :
    ∃ u, exec (.lsi rA rB) s = .next u ∧ u.pc = s.pc + 2 ∧ s.SameMemory u := by
  obtain ⟨-, hpc, -, -, hmem, -⟩ := State.sprWrite_frame hw
  exact ⟨_, exec_lsi_written h hr hw, congrArg (· + 2) hpc, fun a => congrArg (Memory.read · a.toNat) hmem⟩

/-- LSI of a register of the kernel's context: that context is put, nothing else changes (R34). -/
theorem exec_lsi_kernel_bank {b : Bank} (h : s.WordReaches (s.reg rB) .dataRead pa)
    (hr : s.sprCheck (s.reg rA) = .ok r) (hw : s.sprWrite r (s.wordAt pa) = .ok () (s.setBankAt 0 b)) :
    ∃ t, exec (.lsi rA rB) s = .next t ∧ t.pc = s.pc + 2 ∧ s.OnlyBank t 0 ∧ t.bankAt 0 = b :=
  ⟨_, exec_lsi_written h hr hw, rfl,
    ⟨⟨rfl, rfl, rfl, rfl, rfl, rfl, rfl, rfl, rfl, rfl, rfl, rfl, rfl, rfl, rfl⟩,
      fun _ hd => s.bankAt_setBankAt_other b hd, fun _ => rfl⟩,
    s.bankAt_setBankAt_same b s.nctx_pos⟩

/-- LSI does what SSP does with the word, whatever its address reaches. -/
theorem exec_lsi_eq_ssp (h : s.WordReaches (s.reg rB) .dataRead pa) {q : Reg} (hq : s.reg q = s.wordAt pa) :
    exec (.lsi rA rB) s = exec (.ssp q rA) s := by
  simp only [exec, execLsi, execSsp, State.readWord_storage h, hq, Res.bind_ok]

end Lsi

/-- Settles O34: the word is read with no other effect, so what is left is the write of the register reached. -/
theorem lsiResult : Obligations.LsiResult := by
  intro rA rB s pa h
  refine ⟨fun ha => ?_, fun hok ha => ?_, fun hok ha => ?_, fun ha => ?_, fun hm => ⟨fun ha => ?_, fun ha => ?_,
    fun ha => ?_, fun i ha => ?_, fun i ha => ?_⟩, fun q hq => exec_lsi_eq_ssp h hq⟩
  · obtain ⟨r, hr, hcompletes⟩ := State.sprCheck_writable ha
    obtain ⟨t, hw⟩ := hcompletes (s.wordAt pa)
    exact exec_lsi_completes h hr hw
  · obtain ⟨hlink, hflags⟩ := State.setRegOrLink_computed hok 0 (s.wordAt pa) (s.pc + 2)
    exact ⟨_, exec_lsi_written h (State.sprCheck_eq ha (.inl (by decide)) (r := .link) rfl) rfl, rfl, hflags, hlink⟩
  · obtain ⟨hflags, htrap, hframe⟩ := State.writeFlagsWord_frame hok (s.wordAt pa)
    exact ⟨_, exec_lsi_written h (State.sprCheck_eq ha (.inl (by decide)) (r := .flags) rfl) rfl, hflags, htrap, hframe⟩
  · obtain ⟨r, hr, hw⟩ := ha.sprWrite
    exact exec_lsi_written h hr (hw _)
  · exact exec_lsi_written h (State.sprCheck_eq ha (.inr ⟨hm, by decide⟩) (r := .irr) rfl) rfl
  · exact exec_lsi_written h (State.sprCheck_eq ha (.inr ⟨hm, by decide⟩) (r := .isr) rfl) rfl
  · exact exec_lsi_written h (State.sprCheck_eq ha (.inr ⟨hm, by decide⟩) (r := .context) rfl) rfl
  · exact exec_lsi_kernel_bank h (State.sprCheck_eq ha (.inr ⟨hm, by omega⟩) (sprAt_kernCode i)) rfl
  · exact exec_lsi_kernel_bank h (State.sprCheck_eq ha (.inr ⟨hm, by omega⟩) (sprAt_kernData i)) rfl

/-! ### The UART's receive register (R292) -/

theorem State.sprCheck_uartRx {s : State} {a : Word} (hm : s.mode = .kernel) (hlo : 96 ≤ a.toNat)
    (ha : a.toNat = s.cfg.uartRx.toNat) : s.sprCheck a = .ok (.io s.cfg.uartRx) := by
  have hhi := s.cfg.uartRx.isLt
  rw [State.sprCheck_eq ha (.inr ⟨hm, by omega⟩) (sprAt_io _ hhi (ha ▸ hlo)), BitVec.ofNat_toNat, BitVec.setWidth_eq]

theorem State.sprRead_uartRx (s : State) : s.sprRead (.io s.cfg.uartRx) = s.uartReceive :=
  (s.ioRead_eq _).trans (if_pos rfl)

/-- With a byte of input there, it is taken. -/
theorem State.uartReceive_cons {s : State} {b : Byte} {rest : List Byte} (h : s.uartIn = b :: rest) :
    s.uartReceive = .ok (highByte s.anyWord ++ b) { s.drawn with uartIn := rest } := by
  simp only [State.uartReceive, h]

theorem State.uartReceive_nil {s : State} (h : s.uartIn = []) : s.uartReceive = s.readAny := by
  simp only [State.uartReceive, h]

/-- The low byte of a word made of two. -/
theorem append_toNat_mod (hi lo : Byte) : (hi ++ lo : Word).toNat % 256 = lo.toNat := by
  rw [← lowByte_toNat, lowByte, BitVec.extractLsb'_append_eq_right]

/-! ### SSI (R183) -/

/-- Draws are in no store's frame. -/
theorem State.StoredWord.of_draws {s t : State} {d : Nat} {lo hi : PhysAddr} {v : Word}
    (h : ({ s with draws := d } : State).StoredWord t lo hi v) : s.StoredWord t lo hi v :=
  ⟨h.pc, h.low, h.high, (s.sameSingletons_draws d).trans h.frame.singletons, h.frame.banks, h.frame.memory⟩

/-- SSI stores what its special register reads; beside the store, only draws are made and the UART's input consumed. -/
theorem exec_ssi_reads {s : State} {rA rB : Reg} {r : Spr} {pa : PhysAddr} {v : Word} {d : Nat} {input : List Byte}
    (hwf : Memory.wf s.mem = true) (h : s.WordStores (s.reg rB) pa) (hr : s.sprCheck (s.reg rA) = .ok r)
    (hread : s.sprRead r = .ok v { s with draws := d, uartIn := input }) :
    ∃ t, exec (.ssi rA rB) s = .next t ∧ ({ s with uartIn := input } : State).StoredWord t pa (pa + 1) v := by
  have hlow : ({ s with draws := d, uartIn := input } : State).IsRam pa := h.low
  have hhigh : ({ s with draws := d, uartIn := input } : State).IsRam (pa + 1) := h.high
  rw [exec_ssi_reach hr, State.storeSpecial_ok r (State.wordPair_aligned h.even h.reach), hread, Res.bind_ok,
    State.writePair_ram hlow hhigh]
  exact ⟨_, rfl, (State.storedWord (s := { s with draws := d, uartIn := input }) hwf (physAddr_succ_ne pa) v).of_draws⟩

/-- Settles O35: each register is reached, and its read is a value at the cost of a draw and, at the UART, of a byte of
input. -/
theorem ssiResult : Obligations.SsiResult := by
  intro rA rB s pa hwf h
  refine ⟨fun v hv => ?_, fun hv => ?_, fun ha => ?_, fun hm hlo ha => ⟨fun b rest hin => ?_, fun hin => ?_⟩⟩
  · exact exec_ssi_stored hwf hv (State.wordPair_aligned h.even h.reach) (physAddr_succ_ne pa) h.low h.high
  · obtain ⟨r, hr, hread⟩ := hv.sprRead
    obtain ⟨t, stored⟩ := exec_ssi_reads hwf h hr hread
    exact ⟨t, s.anyWord, stored⟩
  · have hr : s.sprCheck (s.reg rA) = .ok .flags := State.sprCheck_eq ha (.inl (by decide)) rfl
    obtain ⟨t, hexec, stored⟩ := exec_ssi_reads hwf h hr rfl
    exact ⟨t, s.flagsWord, hexec, stored, s.flagsWord_bits⟩
  · have hread := s.sprRead_uartRx.trans (State.uartReceive_cons hin)
    obtain ⟨t, hexec, stored⟩ := exec_ssi_reads hwf h (State.sprCheck_uartRx hm hlo ha) hread
    exact ⟨t, _, hexec, stored, append_toNat_mod _ _⟩
  · have hread := s.sprRead_uartRx.trans (State.uartReceive_nil hin)
    obtain ⟨t, stored⟩ := exec_ssi_reads hwf h (State.sprCheck_uartRx hm hlo ha) hread
    exact ⟨t, s.anyWord, stored⟩

end Sys2Proof.Machine
end

section
/-! PROOFS. NOT, NEG, ZXT, SXT, SRA, SRL, DUB (spec/45_zop_unary.md R200..R207): the results as numbers, and what each
instruction leaves. -/

namespace Sys2Proof.Machine

/-! ### The results as numbers (R200, R202..R206) -/

theorem toNat_not_add (w : Word) : (~~~w).toNat + w.toNat = 65535 := by
  rw [toNat_not]; omega

theorem toNat_zeroExtendLow (w : Word) : (zeroExtendLow w).toNat = w.toNat % 256 := by
  rw [zeroExtendLow, zext8, BitVec.toNat_setWidth_of_le (by decide), lowByte_toNat]

/-- The sign is bit 7 of the operand. -/
theorem toInt_signExtendLow (w : Word) :
    (signExtendLow w).toInt =
      if w.toNat % 256 < 128 then ((w.toNat % 256 : Nat) : Int) else ((w.toNat % 256 : Nat) : Int) - 256 := by
  rw [signExtendLow, toInt_sext8, BitVec.toInt_eq_toNat_cond, lowByte_toNat]
  split <;> split <;> omega

theorem highByte_toNat (w : Word) : (highByte w).toNat = w.toNat / 256 := by
  have hbyte : (highByte w).toNat = w.toNat / 2 ^ 8 % 2 ^ 8 := bitField_toNat w 8 8
  omega

/-- A byte in both halves is the byte times 0x0101. -/
theorem toNat_duplicateUpper (w : Word) : (duplicateUpper w).toNat = w.toNat / 256 * 257 := by
  have hconcat : (duplicateUpper w).toNat = (highByte w).toNat * 2 ^ 8 + (highByte w).toNat := toNat_concat _ _
  rw [hconcat, highByte_toNat]
  omega

/-- A word one place right under a new top bit. -/
theorem toNat_shiftedUnder (top : BitVec 1) (w : Word) :
    (top ++ w.extractLsb' 1 15 : Word).toNat = top.toNat * 32768 + w.toNat / 2 := by
  have hconcat : (top ++ w.extractLsb' 1 15 : Word).toNat = top.toNat * 2 ^ 15 + (w.extractLsb' 1 15).toNat :=
    toNat_concat _ _
  have hrest : (w.extractLsb' 1 15).toNat = w.toNat / 2 ^ 1 % 2 ^ 15 := bitField_toNat w 1 15
  omega

theorem toNat_shiftRightLogical (w : Word) : (shiftRightLogical w).toNat = w.toNat / 2 :=
  (toNat_shiftedUnder 0#1 w).trans (by simp)

/-- Bit 15 kept keeps the sign, so the signed value is halved, rounding down. -/
theorem toInt_shiftRightArith (w : Word) : (shiftRightArith w).toInt = w.toInt / 2 := by
  have htop : (w.extractLsb' 15 1).toNat = w.toNat / 2 ^ 15 % 2 ^ 1 := bitField_toNat w 15 1
  have hshift : (shiftRightArith w).toNat = (w.extractLsb' 15 1).toNat * 32768 + w.toNat / 2 :=
    toNat_shiftedUnder _ w
  rw [BitVec.toInt_eq_toNat_cond, BitVec.toInt_eq_toNat_cond]
  split <;> split <;> omega

/-- The bit a shift by one place loses is the remainder of the halving. -/
theorem getLsbD_zero_iff_odd (w : Word) : w.getLsbD 0 = true ↔ w.toNat % 2 = 1 := by
  rw [toNat_mod_two]; split <;> simp_all

/-! ### What a ZOP leaves (R207) -/

section Results

variable {s : State} {rA : Reg}

/-- A result whose flags are partly open: the draw made for them is in no frame. -/
theorem State.drawn_putResult_computed (h : s.bankOk = true) (rA : Reg) (p : Word × Flags) :
    s.Computed (s.drawn.putResult rA p) rA p.1 ∧ (s.drawn.putResult rA p).flags = p.2 :=
  have ⟨computed, hflags⟩ := State.putResult_computed (s.drawn_bankOk.trans h) rA p
  ⟨computed.of_draws, hflags⟩

/-- ZXT, SXT and DUB: C is cleared and Z is the result's. -/
theorem State.extend_computed (h : s.bankOk = true) (rA : Reg) (r : Word) :
    s.Computed (s.extend rA r) rA r ∧ (s.extend rA r).flags.c = false ∧ ((s.extend rA r).flags.z = true ↔ r = 0) := by
  obtain ⟨computed, hflags⟩ := State.drawn_putResult_computed h rA (r, extendFlags r s.anyFlags)
  have hextend : (s.extend rA r).flags = extendFlags r s.anyFlags := hflags
  rw [hextend]
  exact ⟨computed, rfl, decide_eq_true_iff⟩

/-- SRA and SRL: C is the lost bit. -/
theorem State.shiftOne_computed (h : s.bankOk = true) (rA : Reg) (r : Word) :
    s.Computed (s.shiftOne rA r) rA r ∧ ((s.shiftOne rA r).flags.c = true ↔ (s.reg rA).toNat % 2 = 1) := by
  obtain ⟨computed, hflags⟩ :=
    State.drawn_putResult_computed h rA (r, shiftFlags ((s.reg rA).getLsbD 0) s.anyFlags)
  have hshift : (s.shiftOne rA r).flags = shiftFlags ((s.reg rA).getLsbD 0) s.anyFlags := hflags
  rw [hshift]
  exact ⟨computed, getLsbD_zero_iff_odd _⟩

end Results

/-- Settles O9: the three write different words and their flags by one rule. -/
theorem byteUnaryResults : Obligations.ByteUnaryResults := by
  intro rA s hok low sets
  have ⟨zxtComputed, zxtFlags⟩ := State.extend_computed hok rA (zeroExtendLow (s.reg rA))
  have ⟨sxtComputed, sxtFlags⟩ := State.extend_computed hok rA (signExtendLow (s.reg rA))
  have ⟨dubComputed, dubFlags⟩ := State.extend_computed hok rA (duplicateUpper (s.reg rA))
  exact ⟨⟨_, _, rfl, zxtComputed, toNat_zeroExtendLow _, zxtFlags⟩,
    ⟨_, _, rfl, sxtComputed, toInt_signExtendLow _, sxtFlags⟩,
    ⟨_, _, rfl, dubComputed, toNat_duplicateUpper _, dubFlags⟩⟩

/-- Settles O10: one place right under the old top bit halves the signed value, under a zero the unsigned one. -/
theorem shiftRightResults : Obligations.ShiftRightResults := by
  intro rA s hok sets
  have ⟨sraComputed, sraCarry⟩ := State.shiftOne_computed hok rA (shiftRightArith (s.reg rA))
  have ⟨srlComputed, srlCarry⟩ := State.shiftOne_computed hok rA (shiftRightLogical (s.reg rA))
  exact ⟨⟨_, _, rfl, sraComputed, toInt_shiftRightArith _, sraCarry⟩,
    ⟨_, _, rfl, srlComputed, toNat_shiftRightLogical _, srlCarry⟩⟩

/-- Settles O11: the complement and the word add to all ones, and the difference from zero adds back to zero. -/
theorem notNegResults : Obligations.NotNegResults := by
  intro rA s hok
  have ⟨notComputed, _⟩ := State.drawn_putResult_computed hok rA (~~~(s.reg rA), s.anyFlags)
  have ⟨negComputed, _⟩ := State.drawn_putResult_computed hok rA (0 - s.reg rA, s.anyFlags)
  exact ⟨⟨_, _, rfl, notComputed, toNat_not_add _⟩, ⟨_, _, rfl, negComputed, BitVec.sub_add_cancel 0 _⟩⟩

end Sys2Proof.Machine
end

section
/-! PROOFS. The VOPs, the word 0x0000 and a halted machine (spec/46_vop_system.md R220..R231, spec/60_exceptions.md R276,
R299): C written, the privileged instructions in each mode, BRK, and the return from a trap. -/

namespace Sys2Proof.Machine

/-! ### CCF and SCF (R220, R221) -/

/-- C written and nothing else: the other flags are read before the write and put back. -/
theorem State.setCarry_computed {s : State} (h : s.bankOk = true) (c : Bool) :
    s.Computed (s.setCarry c).advance 0 0 ∧ (s.setCarry c).advance.flags = { s.flags with c := c } :=
  ⟨State.setFlags_computed h _, State.flags_setFlags h _⟩

/-- Settles O15: each is a write of C, in the bank of the current mode. -/
theorem carryFlagInstructions : Obligations.CarryFlagInstructions := by
  intro s hok sets
  exact ⟨decodeWord_encode (i := .ccf) rfl, decodeWord_encode (i := .scf) rfl,
    ⟨_, rfl, State.setCarry_computed hok false⟩, ⟨_, rfl, State.setCarry_computed hok true⟩⟩

/-! ### The word 0x0000 (R230) -/

/-- Settles O43: the words are encodings of their instructions, and the entry keeps the banks, memory and the devices'
record. -/
theorem zeroWordIsIllegal : Obligations.ZeroWordIsIllegal := by
  refine ⟨decodeWord_encode (i := .illegal0) rfl, decodeWord_encode (i := .ldw 1 0 0) rfl,
    decodeWord_encode (i := .ldw 0 1 0) rfl, fun s => ⟨rfl, fun hcan => ?_⟩⟩
  have entered := State.enter_entered hcan .illegalInstruction
  exact ⟨_, rfl, entered.irr, entered.mode, entered.banks, entered.memory, entered.devices⟩

/-! ### The mode check (R231) -/

theorem State.privileged_kernel {s : State} (hm : s.mode = .kernel) (m : Res Unit) : s.privileged m = m := by
  rw [State.privileged, hm]

theorem State.privileged_user {s : State} (hm : s.mode = .user) (m : Res Unit) :
    s.privileged m = .raise .illegalInstruction s := by
  rw [State.privileged, hm]

/-- In user mode the four privileged instructions are the illegal instruction trap, with nothing done before it. -/
theorem exec_privileged_user {i : Instr} (hi : i = .di ∨ i = .ei ∨ i = .hlt ∨ i = .rti) {s : State} (hm : s.mode = .user) :
    exec i s = .next (s.enter .illegalInstruction) := by
  have trap (m : Res Unit) : (s.privileged m).run = .next (s.enter .illegalInstruction) :=
    congrArg Res.run (State.privileged_user hm m)
  rcases hi with rfl | rfl | rfl | rfl <;> exact trap _

section Kernel

variable {s : State} (hm : s.mode = .kernel)
include hm

theorem exec_di_kernel : exec .di s = .next { s with ie := false, pc := s.pc + 2 } :=
  congrArg Res.run (State.privileged_kernel hm _)

theorem exec_ei_kernel : exec .ei s = .next { s with ie := true, pc := s.pc + 2 } :=
  congrArg Res.run (State.privileged_kernel hm _)

theorem exec_hlt_kernel : exec .hlt s = .next { s with halted := true, pc := s.pc + 2 } :=
  congrArg Res.run (State.privileged_kernel hm _)

theorem exec_rti_kernel : exec .rti s = s.returnFromTrap.run := congrArg Res.run (State.privileged_kernel hm _)

end Kernel

/-- Settles O46: the mode check lets the write of ie through, or is the trap. -/
theorem interruptEnable : Obligations.InterruptEnable := fun _ =>
  ⟨decodeWord_encode (i := .di) rfl, decodeWord_encode (i := .ei) rfl,
    fun hm => ⟨exec_di_kernel hm, exec_ei_kernel hm⟩,
    fun hm => ⟨exec_privileged_user (.inl rfl) hm, exec_privileged_user (.inr (.inl rfl)) hm⟩⟩

/-! ### BRK (R227) -/

section Brk

variable {s : State}

theorem exec_brk_continue (h : s.cfg.brk = .hostServiceThenContinue) : exec .brk s = .next { s with pc := s.pc + 2 } := by
  simp only [exec, execBrk, h, State.advance]

theorem exec_brk_illegal (h : s.cfg.brk = .illegal) : exec .brk s = .next (s.enter .illegalInstruction) := by
  simp only [exec, execBrk, h]

theorem exec_brk_stop (h : s.cfg.brk = .stop) : exec .brk s = .next { s with halted := true, pc := s.pc + 2 } := by
  simp only [exec, execBrk, h, State.halt, State.advance]

end Brk

/-- Settles O48: one equation per setting. -/
theorem brkBehaviours : Obligations.BrkBehaviours := fun _ => ⟨exec_brk_continue, exec_brk_illegal, exec_brk_stop⟩

/-! ### HLT and the halted machine (R226, R299) -/

section Halted

variable {s : State}

theorem step_halted (h : s.halted = true) : step s = haltedStep s := if_pos h

/-- Nothing can wake it: it makes no step. -/
theorem haltedStep_stopped (h : s.cfg.hltWake = .never ∨ s.ie = false) : haltedStep s = .fault .halted := by
  cases hw : s.cfg.hltWake with
  | never => simp only [haltedStep, hw]
  | interrupt =>
    have hie : s.ie = false := h.resolve_left (by simp [hw])
    simp [haltedStep, hw, hie]

/-- It waits while no interrupt is requested. -/
theorem haltedStep_waits (hw : s.cfg.hltWake = .interrupt) (hie : s.ie = true) (hirq : s.irqLine = false) :
    haltedStep s = .next s.boundary := by
  simp [haltedStep, hw, hie, hirq]

/-- An interrupt request is entered by the machine set running. -/
theorem haltedStep_wakes (hw : s.cfg.hltWake = .interrupt) (hie : s.ie = true) (hirq : s.irqLine = true) :
    haltedStep s = .next (({ s.boundary with halted := false } : State).enter .interrupt) := by
  simp [haltedStep, hw, hie, hirq]

end Halted

/-- Settles O47: the halted machine's step by its cases; an entry keeps the halted bit, which the wake has cleared. -/
theorem haltedMachine : Obligations.HaltedMachine := by
  intro s
  refine ⟨exec_hlt_kernel, fun hhalted => ?_⟩
  rw [step_halted hhalted]
  refine ⟨haltedStep_stopped, fun hw hie => ⟨haltedStep_waits hw hie, fun hirq => ?_⟩⟩
  have entered := State.enter_entered (s := { s.boundary with halted := false }) (.inr hie) .interrupt
  exact ⟨_, haltedStep_wakes hw hie hirq, entered.halted, entered.irr, entered.mode, entered.ie⟩

/-! ### RTI (R228, R276) -/

section Return

variable {s : State}

theorem State.userContextOk_iff : s.userContextOk = true ↔ 0 < s.context.toNat ∧ s.context.toNat < s.cfg.nctx := by
  simp [State.userContextOk]

/-- ISR does not name user mode: the return is to kernel mode. -/
theorem State.returnFromTrap_kernel (h : ¬s.IsrNamesUser) :
    s.returnFromTrap = .ok () { s with mode := .kernel, pc := s.irr, ie := true } := by
  have hdec : isrDecode s.cfg.isrLayout s.isr = .kernel := if_neg h
  simp only [State.returnFromTrap, hdec]

/-- ISR names user mode: the return is to user mode, if CONTEXT names a context for it. -/
theorem State.returnFromTrap_user (h : s.IsrNamesUser) :
    s.returnFromTrap =
      if s.userContextOk then .ok () { s with mode := .user, pc := s.irr, ie := true } else .refuse .userContext := by
  have hdec := (isrDecode_user_iff s).mpr h
  simp only [State.returnFromTrap, hdec]

variable (hm : s.mode = .kernel)
include hm

theorem exec_rti_to_kernel (h : ¬s.IsrNamesUser) :
    exec .rti s = .next { s with mode := .kernel, pc := s.irr, ie := true } := by
  rw [exec_rti_kernel hm, State.returnFromTrap_kernel h, Res.run_ok]

theorem exec_rti_to_user (h : s.IsrNamesUser) (hctx : s.userContextOk = true) :
    exec .rti s = .next { s with mode := .user, pc := s.irr, ie := true } := by
  rw [exec_rti_kernel hm, State.returnFromTrap_user h, if_pos hctx, Res.run_ok]

theorem exec_rti_refused (h : s.IsrNamesUser) (hctx : ¬s.userContextOk = true) :
    exec .rti s = .refused .userContext := by
  rw [exec_rti_kernel hm, State.returnFromTrap_user h, if_neg hctx, Res.run_refuse]

end Return

/-- Under the default encoding user mode is bit 0 of ISR (D19). -/
theorem isrNamesUser_default_iff {s : State} (h : s.cfg.isrLayout = ⟨1, 0, 1⟩) :
    s.IsrNamesUser ↔ s.isr.toNat % 2 = 1 := by
  rw [State.IsrNamesUser, h, ← BitVec.toNat_inj, BitVec.toNat_and, ← Nat.and_one_is_mod]
  rfl

/-- What an entry leaves in ISR names the mode before it, where the encoding tells the modes apart (R29). -/
theorem State.Entered.isrNamesUser_iff {u s : State} {k : TrapKind} (entered : u.Entered s k)
    (hfaithful : u.cfg.isrLayout.Faithful) : s.IsrNamesUser ↔ u.mode = .user := by
  rw [State.IsrNamesUser, entered.cfg, entered.isr]
  cases u.mode with
  | kernel => exact iff_of_false hfaithful (by decide)
  | user => exact iff_of_true rfl rfl

/-- RTI after an entry returns to the mode before it: the context that mode ran in is still there. -/
theorem exec_rti_entered {u s : State} {k : TrapKind} (entered : u.Entered s k) (hok : u.bankOk = true)
    (hfaithful : u.cfg.isrLayout.Faithful) : exec .rti s = .next { s with mode := u.mode, pc := s.irr, ie := true } := by
  have hisr := entered.isrNamesUser_iff hfaithful
  cases hu : u.mode with
  | kernel => exact exec_rti_to_kernel entered.mode (by simp [hisr, hu])
  | user =>
    have hctx : u.userContextOk = true := by rwa [State.bankOk, hu] at hok
    rw [State.userContextOk_iff, ← entered.context, ← entered.cfg, ← State.userContextOk_iff] at hctx
    exact exec_rti_to_user entered.mode (hisr.mpr hu) hctx

/-- Settles O49: the return by what ISR names; after an entry ISR names the mode before it. -/
theorem rtiReturns : Obligations.RtiReturns := by
  intro s hm
  refine ⟨exec_rti_to_kernel hm, fun h hlo hhi => ?_, fun h hbad => ?_, isrNamesUser_default_iff, ?_⟩
  · exact exec_rti_to_user hm h (State.userContextOk_iff.mpr ⟨hlo, hhi⟩)
  · exact exec_rti_refused hm h fun hctx => by
      obtain ⟨hlo, hhi⟩ := State.userContextOk_iff.mp hctx
      omega
  · rintro u k rfl hcan hok hfaithful
    exact ⟨_, exec_rti_entered (State.enter_entered hcan k) hok hfaithful, rfl, rfl, rfl⟩

/-! ### Which VOPs are privileged (R231) -/

/-- DI, EI and HLT complete in kernel mode and stay in it. -/
theorem exec_di_ei_hlt_kernel {i : Instr} (hi : i = .di ∨ i = .ei ∨ i = .hlt) {s : State} (hm : s.mode = .kernel) :
    ∃ t, exec i s = .next t ∧ t.pc = s.pc + 2 ∧ t.mode = .kernel := by
  rcases hi with rfl | rfl | rfl
  · exact ⟨_, exec_di_kernel hm, rfl, hm⟩
  · exact ⟨_, exec_ei_kernel hm, rfl, hm⟩
  · exact ⟨_, exec_hlt_kernel hm, rfl, hm⟩

/-- RTI in kernel mode completes, if it is not refused. -/
theorem exec_rti_completes {s : State} (hm : s.mode = .kernel) (h : ¬s.IsrNamesUser ∨ s.userContextOk = true) :
    ∃ t, exec .rti s = .next t ∧ t.pc = s.irr ∧ t.ie = true := by
  by_cases hisr : s.IsrNamesUser
  · exact ⟨_, exec_rti_to_user hm hisr (h.resolve_left (not_not_intro hisr)), rfl, rfl⟩
  · exact ⟨_, exec_rti_to_kernel hm hisr, rfl, rfl⟩

/-- CCF, SCF and BRK, where it is not the trap, complete in the mode they began in, with ie and t as they were. -/
theorem exec_unprivileged {i : Instr} {s : State} (hi : i = .ccf ∨ i = .scf ∨ i = .brk ∧ s.cfg.brk ≠ .illegal) :
    ∃ t, exec i s = .next t ∧ t.pc = s.pc + 2 ∧ t.mode = s.mode ∧ t.ie = s.ie ∧ t.trap = s.trap := by
  rcases hi with rfl | rfl | ⟨rfl, hbrk⟩
  · exact ⟨_, rfl, rfl, rfl, rfl, rfl⟩
  · exact ⟨_, rfl, rfl, rfl, rfl, rfl⟩
  · cases h : s.cfg.brk with
    | hostServiceThenContinue => exact ⟨_, exec_brk_continue h, rfl, rfl, rfl, rfl⟩
    | illegal => exact absurd h hbrk
    | stop => exact ⟨_, exec_brk_stop h, rfl, rfl, rfl, rfl⟩

/-- Settles O45: the mode check's two answers, the instructions without one, and DIE, which is reserved. -/
theorem privilegedInstructions : Obligations.PrivilegedInstructions := by
  intro i s
  refine ⟨fun hi hm => ?_, fun hi hm => exec_di_ei_hlt_kernel hi hm, ?_, fun hi _ => exec_unprivileged hi,
    fun hi => exec_reserved (.inl hi) s⟩
  · have entered := State.enter_entered (.inl hm) .illegalInstruction
    exact ⟨exec_privileged_user hi hm, entered.irr, entered⟩
  · rintro rfl
    exact exec_rti_completes

end Sys2Proof.Machine
end

section
/-! PROOFS. Taking a trap (spec/60_exceptions.md R261, R270..R273): the vectors, what an entry writes to the exception
registers, and the double fault. -/

namespace Sys2Proof.Machine

/-! ### Vectors (R273, D18) -/

/-- The vectors of the kinds that the source does not number lie in 1..7. -/
theorem TrapKind.vector_of_ne_sys {k : TrapKind} (h : ∀ n, k ≠ .sys n) (t : VectorTable) :
    1 ≤ k.vector t ∧ k.vector t ≤ 7 := by
  cases k with
  | sys n => exact absurd rfl (h n)
  | _ => simp only [TrapKind.vector]; omega

theorem TrapKind.vector_bounds (k : TrapKind) (t : VectorTable) : 1 ≤ k.vector t ∧ k.vector t ≤ 15 := by
  cases k with
  | sys n => simp only [TrapKind.vector]; omega
  | _ => simp only [TrapKind.vector]; omega

/-! ### Entries through a vector (R270) -/

section Entries

variable {s t : State} {k : TrapKind}

/-- An interrupt is entered whatever ie says: it is no trap, fault or exception (R261, R272). -/
theorem State.enter_interrupt_entered (s : State) : s.Entered (s.enter .interrupt) .interrupt := by
  have hie : ({ s with ie := true } : State).enter .interrupt = s.enter .interrupt := rfl
  have e := State.enter_entered (s := { s with ie := true }) (.inr rfl) .interrupt
  rw [hie] at e
  exact ⟨e.irr, e.isr, e.icr, e.idr, e.mode, e.ie, e.pc, e.banks, e.memory, e.trap, e.halted, e.context, e.cycles,
    e.uartIn, e.uartOut, e.devices, e.irqInput, e.cfg⟩

theorem State.enter_entered_or_interrupt (h : s.CanEnter ∨ k = .interrupt) : s.Entered (s.enter k) k := by
  rcases h with h | rfl
  · exact State.enter_entered h k
  · exact s.enter_interrupt_entered

theorem State.Entered.irr_of_ne_sys (h : s.Entered t k) (hk : ∀ n, k ≠ .sys n) : t.irr = s.pc := by
  cases k with
  | sys n => exact absurd rfl (hk n)
  | _ => exact h.irr

/-- ISR under the default encoding (D19). -/
theorem State.Entered.isr_default (h : s.Entered t k) (hcfg : s.cfg.isrLayout = ⟨1, 0, 1⟩) :
    (s.mode = .user → t.isr = 1) ∧ (s.mode = .kernel → t.isr = 0) := by
  refine ⟨fun hm => ?_, fun hm => ?_⟩ <;> rw [h.isr, hm, hcfg]

end Entries

/-- Settles O39: the entry leaves what `Entered` says, and each value is one of its fields. -/
theorem trapEntry : Obligations.TrapEntry := by
  intro k s
  refine ⟨fun h => ?_, fun n hk => by rw [hk]; rfl, fun hk => TrapKind.vector_of_ne_sys hk _⟩
  have entered := State.enter_entered_or_interrupt h
  refine ⟨entered, fun n hk => ?_, entered.irr_of_ne_sys, entered.isr_default, fun va acc hk => ?_, fun va acc hk => ?_⟩
  · subst hk; exact entered.irr
  · exact entered.idr va acc (.inl hk)
  · exact entered.idr va acc (.inr hk)

/-- Settles O40: what an entry writes to ICR names the kind, and entries write what ICR_ENC says. -/
theorem icrDistinguishesKinds : Obligations.IcrDistinguishesKinds := by
  intro k k' hne
  have apart : IcrTellsApart k k' := icrTellsApart hne
  refine ⟨apart, fun s t hs ht => ?_⟩
  rw [(State.enter_entered_or_interrupt hs).icr, (State.enter_entered_or_interrupt ht).icr]
  exact apart s.mode t.mode

/-! ### The double fault (R272) -/

section DoubleFaults

variable {s : State} {k : TrapKind}

theorem TrapKind.isTfe_of_ne_interrupt (h : k ≠ .interrupt) : k.isTfe = true := by
  cases k with
  | interrupt => exact absurd rfl h
  | _ => rfl

theorem State.enter_doubleFault (hk : k ≠ .interrupt) (hm : s.mode = .kernel) (hie : s.ie = false) :
    s.enter k = s.doubleFault := by
  simp [State.enter, State.isDoubleFault, TrapKind.isTfe_of_ne_interrupt hk, hm, hie]

theorem State.doubleFault_halt (h : s.cfg.doubleFault = .halt) : s.doubleFault = { s with halted := true } := by
  simp only [State.doubleFault, h]

theorem State.doubleFault_reset (h : s.cfg.doubleFault = .reset) : s.doubleFault = s.resetAgain := by
  simp only [State.doubleFault, h]

end DoubleFaults

theorem Bank.withSlot0_cmmu (b : Bank) : b.withSlot0.cmmu.get 0 = 0 := by
  simp [Bank.withSlot0, Vector.get_eq_getElem]

theorem Bank.withSlot0_dmmu (b : Bank) : b.withSlot0.dmmu.get 0 = 0 := by
  simp [Bank.withSlot0, Vector.get_eq_getElem]

/-- Context 0 after the reset that answers a double fault is free but for its MMU registers 0 (R320, R323). -/
theorem State.resetAgain_slot0 (s : State) :
    (s.resetAgain.bankAt 0).cmmu.get 0 = 0 ∧ (s.resetAgain.bankAt 0).dmmu.get 0 = 0 :=
  ⟨Bank.withSlot0_cmmu (Config.freeBank s.draws 0), Bank.withSlot0_dmmu (Config.freeBank s.draws 0)⟩

/-- Settles O41: such a trap is a double fault, which is the halt or the reset. -/
theorem doubleFault : Obligations.DoubleFault := by
  intro k s hk hm hie
  rw [State.enter_doubleFault hk hm hie]
  refine ⟨State.doubleFault_halt, fun hcfg => ?_⟩
  obtain ⟨hcode, hdata⟩ := s.resetAgain_slot0
  rw [State.doubleFault_reset hcfg]
  exact ⟨rfl, rfl, rfl, rfl, hcode, hdata, fun _ => rfl, rfl, rfl⟩

end Sys2Proof.Machine
end

section
/-! PROOFS. The layers of a step (spec/60_exceptions.md R262, R264, R268): the interrupt at the boundary, the trace trap
before or after the instruction, and the instruction that was fetched. -/

namespace Sys2Proof.Machine

section Steps

variable {s : State}

/-! ### The boundary (R264) -/

theorem step_interrupted (hrun : s.halted = false) (hirq : s.interrupted = true) :
    step s = .next (s.boundary.enter .interrupt) := by
  simp [step, stepOnce, hrun, hirq]

theorem step_instruction (hrun : s.halted = false) (hirq : s.interrupted = false) :
    step s = instructionStep s.boundary := by
  simp [step, stepOnce, hrun, hirq]

theorem State.interrupted_disabled (h : s.ie = false) : s.interrupted = false := by
  rw [State.interrupted, h, Bool.false_and]

/-! ### The trace trap (R268) -/

theorem State.armed_of_user (hm : s.mode = .user) (ht : s.trap = true) : s.armed = true := by
  simp [State.armed, hm, ht]

theorem instructionStep_traceBefore (hok : s.bankOk = true) (harmed : s.armed = true)
    (hcfg : s.cfg.traceTiming = .before) : instructionStep s = .next (s.enter .trace) := by
  simp [instructionStep, hok, harmed, hcfg]

/-- An armed instruction that ends in `t` is traced where user mode goes on and the machine runs on. -/
theorem afterInstruction_armed_next (harmed : s.armed = true) (hcfg : s.cfg.traceTiming = .after) (t : State) :
    afterInstruction s (.next t) = .next (if t.mode = .user ∧ t.halted = false then t.enter .trace else t) := by
  simp only [afterInstruction, harmed, hcfg]
  by_cases hm : t.mode = .user <;> cases hh : t.halted <;> simp [hm]

/-- An instruction that ends in no next state is followed by nothing. -/
theorem afterInstruction_stopped {o : Host.Outcome State Fault Refusal} (h : ∀ t, o ≠ .next t) :
    afterInstruction s o = o := by
  cases o with
  | next t => exact absurd rfl (h t)
  | fault r => rfl
  | refused r => rfl

/-! ### The instruction (R262) -/

/-- A fetch that reaches storage: the step is the stored word's instruction, and what follows it. -/
theorem State.Fetches.step_storage {pa : PhysAddr} (hf : s.Fetches) (h : s.WordReaches s.pc .fetch pa) :
    step s = afterInstruction s.boundary (exec (decodeWord (s.wordAt pa)) s.boundary) := by
  have hreach : s.boundary.WordReaches s.boundary.pc .fetch pa := ⟨h.even, h.reach, h.low, h.high⟩
  rw [hf.step_eq, fetchAndRun, State.fetch_storage hreach]
  rfl

end Steps

/-- Two bytes hold one instruction, the one of their word (R63, R104). -/
theorem decode_pair_eq_ok {lo hi : Byte} {i : Instr} (h : decode [lo, hi] = .ok (i, [])) :
    i = decodeWord (wordOfBytes lo hi) := by
  cases h; rfl

/-- Settles O50: the fetched word is the two bytes', and `afterInstruction` says what follows its instruction. -/
theorem stepRunsDecodedInstruction : Obligations.StepRunsDecodedInstruction := by
  intro s pa i hf hreach hdec
  have hi : i = decodeWord (s.wordAt pa) := decode_pair_eq_ok hdec
  rw [hf.step_storage hreach, ← hi]
  refine ⟨fun harmed => afterInstruction_unarmed (s := s.boundary) harmed _,
    fun harmed => ⟨fun t ht => ?_, afterInstruction_stopped⟩⟩
  rw [ht]
  exact afterInstruction_armed_next (s := s.boundary) harmed (hf.notBefore harmed) t

/-- Settles O53: under `before` the boundary is the trace trap's; under `after` the step fetches, and its instruction,
which leaves t as it was, is followed by the entry. -/
theorem traceTrap : Obligations.TraceTrap := by
  intro s hrun hirq hctx hm ht
  have hok : s.bankOk = true := by rwa [State.bankOk, hm]
  have harmed : s.armed = true := State.armed_of_user hm ht
  refine ⟨fun hcfg => ?_, fun hcfg pa u hreach hexec hum huh => ?_⟩
  · have entered := State.enter_entered (s := s.boundary) (.inl hm) .trace
    have hstep := instructionStep_traceBefore (s := s.boundary) hok harmed hcfg
    exact ⟨_, (step_instruction hrun hirq).trans hstep, entered, entered.irr⟩
  · have hf : s.Fetches := ⟨hrun, hirq, hok, fun _ => hcfg⟩
    have hutrap : u.trap = true := by
      cases exec_ends hexec with
      | ordinary o => exact (o.trap hm).trans ht
      | trap k d w _ _ e => rw [e, State.enter_mode] at hum; cases hum
      | rti _ hk _ => rw [State.boundary_mode, hm] at hk; cases hk
    have entered := State.enter_entered (s := u) (.inl hum) .trace
    refine ⟨u.enter .trace, ?_, entered, entered.irr, entered.trap.trans hutrap⟩
    rw [hf.step_storage hreach, hexec, afterInstruction_armed_next (s := s.boundary) harmed hcfg, if_pos ⟨hum, huh⟩]

/-- Settles O54: with ie = 1 the step is the interrupt's entry; with ie = 0 it is the instruction's, from a boundary at
which the request is gone. -/
theorem interruptBoundary : Obligations.InterruptBoundary := by
  intro s hrun
  refine ⟨fun hie hirq => ?_, fun hie => ?_⟩
  · have hint : s.interrupted = true := by rw [State.interrupted, hie, hirq]; rfl
    have entered := State.enter_entered (s := s.boundary) (.inr hie) .interrupt
    exact ⟨_, step_interrupted hrun hint, entered, entered.irr⟩
  · rw [step_instruction hrun (State.interrupted_disabled hie),
      step_instruction (s := { s with irqInput := false :: s.irqInput.tail }) hrun (State.interrupted_disabled hie)]
    rfl

end Sys2Proof.Machine
end

section
/-! PROOFS. User code is confined (spec/60_exceptions.md R278): what it changes itself, and the entry that takes it out of
user mode. -/

namespace Sys2Proof.Machine

/-- From `s`, something an ordinary instruction may do led to `t`, or to a state from which an entry left `t`. -/
def State.OrdinaryOrEntered (s t : State) : Prop := ∃ u, s.Ordinary u ∧ (t = u ∨ ∃ k, u.Entered t k)

section OrdinaryOrEntered

variable {s t u : State}

theorem State.Ordinary.orEntered (h : s.Ordinary t) : s.OrdinaryOrEntered t := ⟨t, h, .inl rfl⟩

/-- An entry made in user mode is no double fault. -/
theorem State.Ordinary.enter (h : s.Ordinary u) (hm : u.mode = .user) (k : TrapKind) : s.OrdinaryOrEntered (u.enter k) :=
  ⟨u, h, .inr ⟨k, State.enter_entered (.inl hm) k⟩⟩

/-- After an entry the machine is not in user mode. -/
theorem State.OrdinaryOrEntered.ordinary (h : s.OrdinaryOrEntered t) (hm : t.mode = .user) : s.Ordinary t := by
  obtain ⟨u, o, rfl | ⟨k, e⟩⟩ := h
  · exact o
  · rw [e.mode] at hm; cases hm

end OrdinaryOrEntered

/-- An instruction of user code completes as an ordinary one, or traps from a state that draws alone have changed; RTI is
the trap of the mode check. -/
theorem exec_user {i : Instr} {s t : State} (hm : s.mode = .user) (h : exec i s = .next t) : s.OrdinaryOrEntered t := by
  cases exec_ends h with
  | ordinary o => exact o.orEntered
  | trap k d w _ hw e =>
    obtain rfl := hw hm
    subst e
    exact ((State.Ordinary.refl s).mk_pc s.pc s.halted d).enter hm k
  | rti _ hk _ => rw [hm] at hk; cases hk

/-- A step of user code: the boundary and perhaps an ordinary instruction, and perhaps one entry. -/
theorem step_user {s t : State} (hm : s.mode = .user) (h : step s = .next t) : s.boundary.OrdinaryOrEntered t := by
  have same : s.boundary.Ordinary s.boundary := .refl _
  rcases step_cases h with ⟨rfl, -⟩ | ⟨-, -, rfl⟩ | ⟨-, rfl⟩ | ⟨-, -, rfl⟩ | ⟨-, k, -, rfl⟩ |
    ⟨-, w, d, q, u, -, hexec, hend⟩
  · exact same.orEntered
  · exact (same.mk_pc s.pc false s.boundary.draws).enter hm .interrupt
  · exact same.enter hm .interrupt
  · exact same.enter hm .trace
  · exact same.enter hm k
  · obtain ⟨v, o, hv⟩ := exec_user (s := { s.boundary with draws := d, deviceRefs := q }) hm hexec
    have ended : s.boundary.OrdinaryOrEntered u := ⟨v, o.of_reads, hv⟩
    rcases hend with rfl | ⟨hum, -, rfl⟩
    · exact ended
    · exact (ended.ordinary hum).enter hum .trace

/-- An entry goes on at one of the vectors 1..15 (R69, R273). -/
theorem State.Entered.pc_vector {s t : State} {k : TrapKind} (h : s.Entered t k) :
    ∃ n, 1 ≤ n ∧ n ≤ 15 ∧ t.pc.toNat = 4 * n := by
  obtain ⟨hlo, hhi⟩ := k.vector_bounds s.cfg.vectors
  refine ⟨_, hlo, hhi, ?_⟩
  rw [h.pc, BitVec.toNat_ofNat]
  omega

/-- Settles O59: the ordinary part of the step has the limits of user mode; an entry after it keeps the contexts and the
other registers, and writes the exception registers on the way into kernel mode. -/
theorem userCodeIsConfined : Obligations.UserCodeIsConfined := by
  intro s t hm hstep
  obtain ⟨u, o, rfl | ⟨k, e⟩⟩ := step_user hm hstep
  · have hum : t.mode = .user := o.mode.trans hm
    exact ⟨o.banks hm, o.cmmu hm, o.dmmu hm, o.context hm, o.trap hm, o.uartIn hm, o.uartOut hm, o.cfg,
      fun _ => o.saved hm, fun hk => absurd (hum.symm.trans hk) (by decide)⟩
  · have hum : u.mode = .user := o.mode.trans hm
    have hisr : t.isr = s.cfg.isrLayout.user := by rw [e.isr, hum, o.cfg]; rfl
    exact ⟨fun c hc => (e.banks c).trans (o.banks hm c hc), (congrArg Bank.cmmu (e.banks _)).trans (o.cmmu hm),
      (congrArg Bank.dmmu (e.banks _)).trans (o.dmmu hm), e.context.trans (o.context hm), e.trap.trans (o.trap hm),
      e.uartIn.trans (o.uartIn hm), e.uartOut.trans (o.uartOut hm), e.cfg.trans o.cfg,
      fun hu => absurd (e.mode.symm.trans hu) (by decide), fun _ => ⟨e.ie, hisr, e.pc_vector⟩⟩

end Sys2Proof.Machine
end

section
/-! PROOFS. Devices and the UART (spec/20_memory.md R66, R68, spec/60_exceptions.md R292, R296): loads and stores that
reach a memory-mapped device, and the transmit and receive registers. -/

namespace Sys2Proof.Machine

/-! ### Memory-mapped devices (R68, R296) -/

section Devices

variable {s : State} {rA : Reg} {va : Word} {acc : Access} {pa : PhysAddr}

/-- A load whose reference a device answered with `v`: beside the reference, its register alone is written. -/
theorem Res.intoReg_device {m : Res Word} {r : DeviceRef} {v : Word} (hok : s.bankOk = true) (rA : Reg)
    (h : m = .ok v (s.drawn.referred r)) :
    ∃ t, (m.intoReg rA).run = .next t ∧ ({ s with deviceRefs := s.deviceRefs ++ [r] } : State).Loaded t rA v :=
  Res.intoReg_loaded (s := { s with deviceRefs := s.deviceRefs ++ [r] }) hok rA h

theorem State.readByte_device (h : s.Reaches va .dataRead pa) (hpa : s.kindAt pa = .device) :
    s.readByte va = .ok (Config.freeByte s.draws) (s.drawn.referred (.readByte pa (Config.freeByte s.draws))) := by
  rw [State.readByte, h, State.checked_ok, State.readPhys_device hpa]

theorem State.writeByte_device (h : s.Reaches va .dataWrite pa) (hpa : s.kindAt pa = .device) (b : Byte) :
    s.writeByte va b = .ok () (s.referred (.writeByte pa b)) := by
  rw [State.writeByte, h, State.checked_ok, State.writePhys_device hpa]

/-- An aligned word of a device is one reference (R66). -/
theorem State.readWord_device (he : va.getLsbD 0 = false) (h : s.Reaches va acc pa) (hlo : s.kindAt pa = .device)
    (hhi : s.kindAt (pa + 1) = .device) :
    s.readWord va acc = .ok s.anyWord (s.drawn.referred (.readWord pa s.anyWord)) := by
  rw [State.readWord, State.wordPair_aligned he h, State.checked_ok,
    State.readPair_device (State.translate_even h he) hlo hhi]

theorem State.writeWord_device (he : va.getLsbD 0 = false) (h : s.Reaches va .dataWrite pa)
    (hlo : s.kindAt pa = .device) (hhi : s.kindAt (pa + 1) = .device) (v : Word) :
    s.writeWord va v = .ok () (s.referred (.writeWord pa v)) := by
  rw [State.writeWord, State.wordPair_aligned he h, State.checked_ok,
    State.writePair_device (State.translate_even h he) hlo hhi]

end Devices

/-- Settles O27: each instruction makes the one reference, which the device answers or is given. -/
theorem deviceReferences : Obligations.DeviceReferences := by
  intro rA rB imm7 s pa hok hpa
  refine ⟨fun h => ?_, fun h => ?_, fun hhi => ⟨fun h he => ?_, fun h he => ?_, fun h he => ?_⟩⟩
  · have hread : ((s.readByte (s.reg rB + BitVec.ofInt 16 imm7.toInt)).bind fun b t => .ok (sext8 b) t) =
        .ok (sext8 (Config.freeByte s.draws)) (s.drawn.referred (.readByte pa (Config.freeByte s.draws))) := by
      rw [State.readByte_device h hpa, Res.bind_ok]
    obtain ⟨t, hrun, hload⟩ := Res.intoReg_device hok rA hread
    exact ⟨t, _, _, (exec_ldb rA rB imm7 s).trans hrun, hload, toInt_sext8 _⟩
  · rw [exec_stb, State.writeByte_device h hpa]
    rfl
  · obtain ⟨t, hrun, hload⟩ := Res.intoReg_device hok rA (State.readWord_device he h hpa hhi)
    exact ⟨t, _, (exec_ldw rA rB imm7 s).trans hrun, hload⟩
  · rw [exec_stw, State.writeWord_device he h hpa hhi]
    rfl
  · obtain ⟨t, hrun, hload⟩ := Res.intoReg_device hok rA (State.readWord_device he h hpa hhi)
    exact ⟨t, _, (exec_lcw rA rB s).trans hrun, hload⟩

/-! ### The UART (R292) -/

theorem State.sprCheck_uartTx {s : State} {a : Word} (hm : s.mode = .kernel) (hlo : 96 ≤ a.toNat)
    (ha : a.toNat = s.cfg.uartTx.toNat) : s.sprCheck a = .ok (.io s.cfg.uartTx) := by
  have hhi := s.cfg.uartTx.isLt
  rw [State.sprCheck_eq ha (.inr ⟨hm, by omega⟩) (sprAt_io _ hhi (ha ▸ hlo)), BitVec.ofNat_toNat, BitVec.setWidth_eq]

theorem State.sprWrite_uartTx (s : State) (v : Word) :
    s.sprWrite (.io s.cfg.uartTx) v = .ok () { s with uartOut := s.uartOut ++ [lowByte v] } :=
  congrArg (Res.ok ()) ((s.ioWrite_eq _ v).trans (if_pos rfl))

/-- LSP of a register whose read leaves `input` of the UART's input, and makes draws. -/
theorem exec_lsp_input {s : State} {rA rB : Reg} {r : Spr} {v : Word} {d : Nat} {input : List Byte}
    (hok : s.bankOk = true) (hr : s.sprCheck (s.reg rB) = .ok r)
    (hv : s.sprRead r = .ok v { s with draws := d, uartIn := input }) :
    ∃ t, exec (.lsp rA rB) s = .next t ∧ ({ s with uartIn := input } : State).Loaded t rA v := by
  rw [exec_lsp_reach hr]
  exact Res.intoReg_loaded (s := { s with uartIn := input }) hok rA hv

/-- Settles O33: the transmit register's write appends to the output, the receive register's read takes a byte of the
input or finds none. -/
theorem uartTransfers : Obligations.UartTransfers := by
  intro rA rB s hm hlo
  have hok : s.bankOk = true := State.bankOk_kernel hm
  refine ⟨fun ha => exec_ssp_written (State.sprCheck_uartTx hm hlo ha) (s.sprWrite_uartTx _),
    fun ha => ⟨fun b rest hin => ?_, fun hin => ?_⟩⟩
  · have hread := s.sprRead_uartRx.trans (State.uartReceive_cons hin)
    obtain ⟨t, hexec, hload⟩ := exec_lsp_input (rA := rA) hok (State.sprCheck_uartRx hm hlo ha) hread
    exact ⟨t, _, hexec, hload, append_toNat_mod _ _⟩
  · have hread := s.sprRead_uartRx.trans (State.uartReceive_nil hin)
    obtain ⟨t, hload⟩ := exec_lsp_loaded (rA := rA) hok (State.sprCheck_uartRx hm hlo ha) hread
    exact ⟨t, s.anyWord, hload⟩

end Sys2Proof.Machine
end

section
/-! PROOFS. Power-on reset (spec/70_reset_and_hazards.md R320..R324). -/

namespace Sys2Proof.Machine

/-- Equal contexts, and blank past their end: every context is blank if they are. -/
theorem bankGet_replicate_blank (n c : Nat) : bankGet (List.replicate n Bank.blank) c = Bank.blank := by
  induction n generalizing c with
  | zero => rfl
  | succ n ih =>
    cases c with
    | zero => rfl
    | succ c => exact ih c

/-- Every context is blank at reset. -/
theorem State.bankAt_reset (c : Nat) : State.reset.bankAt c = Bank.blank := bankGet_replicate_blank _ c

/-- Settles O56: reset is in kernel mode, with no byte of memory listed. -/
theorem resetMeetsInvariant : Obligations.ResetMeetsInvariant := State.Inv.ofKernel rfl rfl

/-- Settles O57: the kernel's context is blank, and the other fields are written out in `State.reset`. -/
theorem resetState : Obligations.ResetState where
  mode := rfl
  pc := rfl
  halted := rfl
  ie := rfl
  cycles := rfl
  code0 := by rw [State.bankAt_reset]; rfl
  data0 := by rw [State.bankAt_reset]; rfl
  uartOut := rfl

end Sys2Proof.Machine
end
